-- ==== Sys2Proof/Word.lean ====
section
/-! DEFINITION. The word types of the IBM 6x86 model. The spec names bytes, words of 2 bytes and dwords of
4 bytes (R100), 8-bit configuration registers (R109), and 64-bit descriptors (R31, R171). -/

namespace Sys2Proof

/-- 8 bits: the addressable unit of memory and the width of one configuration transfer (R100, R109). -/
abbrev Byte := BitVec 8

/-- 16 bits: "word", selectors, port numbers (R51, R102). -/
abbrev Word := BitVec 16

/-- 32 bits: "dword", general registers, physical and linear addresses (R50, R100). -/
abbrev Dword := BitVec 32

/-- 64 bits: the raw eight bytes of a descriptor (R31). -/
abbrev Qword := BitVec 64

end Sys2Proof
end

