-- ==== Sys2Proof/Config.lean ====
section
/-! DEFINITION. What a part or a platform fixes, and the free values. Every constant here is opaque and has no
body: nothing can be proved of its value, so a claim holds for every value it could have. -/

namespace Sys2Proof.Config

/-- `DEVID`, what DIR0 reads as (R25, D34); the spec gives no value. Assumption log 11. -/
opaque devid : BitVec 8

/-- `SID`, bits 7 to 4 of DIR1 (R26, D34). Assumption log 11. -/
opaque sid : BitVec 4

/-- `RID`, bits 3 to 0 of DIR1 (R26, D34). Assumption log 11. -/
opaque rid : BitVec 4

/-- `RCE_OUTSIDE_NONCACHEABLE` (R291, C5, D17): whether RCR7.RCE = 1 makes the addresses outside region 7
non-cacheable. Assumption log 12. -/
opaque rceOutsideNoncacheable : Bool

/-- `PARAM_UNIT_16` (R178, C7, D29): true when a 16-bit call gate copies 4-byte parameters, false for 2-byte
ones. Assumption log 13. -/
opaque paramUnit16IsDword : Bool

/-- `PORT22_WRITE_EXTERNAL` (R221, D5): whether a write of this index to port 22h is also driven on the
external bus. It changes no state of the CPU. Assumption log 14. -/
opaque port22WriteExternal : BitVec 8 → Bool

/-- The level of LOCK# during an interrupt acknowledge cycle under weak locking, which two sentences of the
source give differently (R127, C9, N14). Assumption log 15. -/
opaque lockAssertedOnInterruptAcknowledge : Bool

/-- The `n`-th free byte: the answer of the platform to an external I/O read (R222, R224, R225) and the value
of an index that holds no register (R230). Assumption log 16. -/
opaque freeByte : Nat → BitVec 8

/-- The `n`-th free dword: the bits of DR6 and DR7 the spec does not name (R313, D20), and the program counter
past the end of the range it counts in (N20). Assumption logs 17 and 18. -/
opaque freeDword : Nat → BitVec 32

/-- The `n`-th free bit: whether an NMI that is not recognized is held pending (R261). Assumption log 19. -/
opaque freeBool : Nat → Bool

/-- Whether SUSPA# is asserted while the CPU is in suspend mode by a HLT, which the spec leaves open: R377 gives the pin
as the acknowledge of SUSP# alone (R60, R259, N17). Assumption log 44. -/
opaque suspaOnHaltSuspend : Bool

/-- What a part does with a memory access that is not naturally aligned (R108): nothing is said of it, or it is made
like an aligned one, of the bytes at its address and the ones after it. -/
inductive MisalignedPolicy where
  | notGiven | likeAligned
deriving DecidableEq, Repr

/-- `MISALIGNED_POLICY` (R108, D2): the spec leaves it open and names no policy, and "refuses an access that is not
naturally aligned unless the policy says what it does". Assumption log 29. -/
def misalignedPolicy : MisalignedPolicy := .notGiven

/-- `PA_BITS` (R100, D39). -/
def physicalAddressBits : Nat := 32

end Sys2Proof.Config
end

