-- ==== Sys2Proof/Syntax.lean ====
section
/-! DEFINITION. The instructions the spec admits: one constructor of `Instr` per row of
spec/opcode_table.json, over the register names of R142. -/

namespace Sys2Proof

/-- The eight general registers in the numbering of R142: as a 32-bit operand EAX, ECX, EDX, EBX, ESP, EBP,
ESI, EDI, as a 16-bit operand AX, CX, DX, BX, SP, BP, SI, DI. -/
inductive GReg where
  | a | c | d | b | sp | bp | si | di
deriving DecidableEq, Repr

/-- The eight 8-bit registers in the numbering of R142. -/
inductive Reg8 where
  | al | cl | dl | bl | ah | ch | dh | bh
deriving DecidableEq, Repr

/-- The debug register number of a MOV, the `reg` field of its ModRM byte (R142, R145). The numbers 4 and 5
name no register of the six (R333); the meaning of the MOV refuses them, as R312 and R313 write it. -/
inductive DrNum where
  | dr0 | dr1 | dr2 | dr3 | dr4 | dr5 | dr6 | dr7
deriving DecidableEq, Repr

/-- The fourteen instructions of the opcode table. -/
inductive Instr where
  /-- LTR r16 (R192). -/
  | ltr (r : GReg)
  /-- STR r16 (R193). -/
  | str (r : GReg)
  /-- MOV r32, DRn (R313). -/
  | movR32Dr (r : GReg) (n : DrNum)
  /-- MOV DRn, r32 (R312). -/
  | movDrR32 (n : DrNum) (r : GReg)
  /-- HLT (R270). -/
  | hlt
  /-- LOOP rel8 (R271). -/
  | loop (rel : BitVec 8)
  /-- CPUID (R272). -/
  | cpuid
  /-- INT 3 (R327). -/
  | int3
  /-- OUT imm8, AL (R240). -/
  | outImmAl (port : BitVec 8)
  /-- IN AL, imm8 (R241). -/
  | inAlImm (port : BitVec 8)
  /-- OUT DX, AL (R242). -/
  | outDxAl
  /-- IN AL, DX (R243). -/
  | inAlDx
  /-- MOV r8, imm8 (R155). -/
  | movR8Imm (r : Reg8) (imm : BitVec 8)
  /-- MOV r8, r8 (R156): destination, then source. -/
  | movR8R8 (d s : Reg8)
deriving DecidableEq, Repr

end Sys2Proof
end

