-- ==== Sys2Proof/Decode.lean ====
section
/-! DEFINITION. The decoder, total on any bytes and rejecting by name, and the encoder, both from the encoding
tables of 30_encoding.md (R141 to R147, R155, R156). All encodings there are marked as general knowledge
by the spec itself (G1). -/

namespace Sys2Proof

/-- Why bytes are no instruction of the spec. -/
inductive DecodeError where
  /-- A byte sequence outside the admitted forms (R141). -/
  | outsideSpec
  /-- An operand-size, address-size or lock byte before an instruction (R141, R158). -/
  | prefixByte
  /-- A ModRM byte with `mod` other than 11b, a memory operand (R142, R144, R145). -/
  | modNotRegister
  /-- A word or doubleword port instruction, E5, E7, ED, EF (R109, R147). -/
  | widePortAccess
  /-- A MOV with a test register, 0F 24 or 0F 26 (R343). -/
  | testRegister
  /-- The bytes end before the instruction does. -/
  | truncated
deriving DecidableEq, Repr

/-- The general register a 3-bit field names (R142). -/
def GReg.ofBits (b : BitVec 3) : GReg :=
  if b = 0#3 then .a else if b = 1#3 then .c else if b = 2#3 then .d else if b = 3#3 then .b
  else if b = 4#3 then .sp else if b = 5#3 then .bp else if b = 6#3 then .si else .di

/-- The 3-bit number of a general register (R142). -/
def GReg.bits : GReg → BitVec 3
  | .a => 0#3 | .c => 1#3 | .d => 2#3 | .b => 3#3 | .sp => 4#3 | .bp => 5#3 | .si => 6#3 | .di => 7#3

/-- The 8-bit register a 3-bit field names (R142). -/
def Reg8.ofBits (b : BitVec 3) : Reg8 :=
  if b = 0#3 then .al else if b = 1#3 then .cl else if b = 2#3 then .dl else if b = 3#3 then .bl
  else if b = 4#3 then .ah else if b = 5#3 then .ch else if b = 6#3 then .dh else .bh

/-- The 3-bit number of an 8-bit register (R142). -/
def Reg8.bits : Reg8 → BitVec 3
  | .al => 0#3 | .cl => 1#3 | .dl => 2#3 | .bl => 3#3 | .ah => 4#3 | .ch => 5#3 | .dh => 6#3 | .bh => 7#3

/-- The debug register number in a 3-bit field (R142). -/
def DrNum.ofBits (b : BitVec 3) : DrNum :=
  if b = 0#3 then .dr0 else if b = 1#3 then .dr1 else if b = 2#3 then .dr2 else if b = 3#3 then .dr3
  else if b = 4#3 then .dr4 else if b = 5#3 then .dr5 else if b = 6#3 then .dr6 else .dr7

/-- The 3-bit field of a debug register number (R142). -/
def DrNum.bits : DrNum → BitVec 3
  | .dr0 => 0#3 | .dr1 => 1#3 | .dr2 => 2#3 | .dr3 => 3#3 | .dr4 => 4#3 | .dr5 => 5#3 | .dr6 => 6#3 | .dr7 => 7#3

/-- `mod`, bits 7:6 of a ModRM byte (R142). -/
def modField (m : Byte) : BitVec 2 := m.extractLsb' 6 2

/-- `reg`, bits 5:3 of a ModRM byte (R142). -/
def regField (m : Byte) : BitVec 3 := m.extractLsb' 3 3

/-- `rm`, bits 2:0 of a ModRM byte, and the register in the low bits of B0h + r (R142, R155). -/
def rmField (m : Byte) : BitVec 3 := m.extractLsb' 0 3

/-- The ModRM byte with `mod` = 11b (R142). -/
def modrmByte (reg rm : BitVec 3) : Byte := 3#2 ++ reg ++ rm

/-- What a decoder answers: the instruction and the bytes after it, or why there is none. -/
abbrev Decoded := Except DecodeError (Instr × List Byte)

/-- Take the byte after an opcode: an immediate, a displacement or a port number (R143). -/
def withByte (bs : List Byte) (f : Byte → List Byte → Decoded) : Decoded :=
  match bs with
  | [] => .error .truncated
  | b :: rest => f b rest

/-- Take a ModRM byte, whose `mod` must be 11b (R142). -/
def withModrm (bs : List Byte) (f : (reg rm : BitVec 3) → List Byte → Decoded) : Decoded :=
  withByte bs fun m rest =>
    if modField m = 3#2 then f (regField m) (rmField m) rest else .error .modNotRegister

/-- 0F 00 /1 is STR, 0F 00 /3 is LTR; the other digits are outside the spec, whatever `mod` is (R144). -/
def decodeGroup6 (bs : List Byte) : Decoded :=
  withByte bs fun m rest =>
    if regField m = 1#3 ∨ regField m = 3#3 then
      if modField m = 3#2 then
        if regField m = 1#3 then .ok (.str (GReg.ofBits (rmField m)), rest)
        else .ok (.ltr (GReg.ofBits (rmField m)), rest)
      else .error .modNotRegister
    else .error .outsideSpec

/-- The second opcode byte after the escape byte 0Fh (R144 to R146, R343). -/
def decodeEscape (bs : List Byte) : Decoded :=
  withByte bs fun op rest =>
    if op = 0x00#8 then decodeGroup6 rest
    else if op = 0x21#8 then withModrm rest fun reg rm r => .ok (.movR32Dr (GReg.ofBits rm) (DrNum.ofBits reg), r)
    else if op = 0x23#8 then withModrm rest fun reg rm r => .ok (.movDrR32 (DrNum.ofBits reg) (GReg.ofBits rm), r)
    else if op = 0xA2#8 then .ok (.cpuid, rest)
    else if op = 0x24#8 ∨ op = 0x26#8 then .error .testRegister
    else .error .outsideSpec

/-- The decoder (R141): the instruction at the head of the bytes and the bytes after it. -/
def decode (bs : List Byte) : Decoded :=
  withByte bs fun op rest =>
    if op = 0x0F#8 then decodeEscape rest
    else if op = 0xF4#8 then .ok (.hlt, rest)
    else if op = 0xE2#8 then withByte rest fun i r => .ok (.loop i, r)
    else if op = 0xCC#8 then .ok (.int3, rest)
    else if op = 0xE6#8 then withByte rest fun p r => .ok (.outImmAl p, r)
    else if op = 0xE4#8 then withByte rest fun p r => .ok (.inAlImm p, r)
    else if op = 0xEE#8 then .ok (.outDxAl, rest)
    else if op = 0xEC#8 then .ok (.inAlDx, rest)
    else if op.extractLsb' 3 5 = 0x16#5 then withByte rest fun i r => .ok (.movR8Imm (Reg8.ofBits (rmField op)) i, r)
    else if op = 0x88#8 then withModrm rest fun reg rm r => .ok (.movR8R8 (Reg8.ofBits rm) (Reg8.ofBits reg), r)
    else if op = 0xE5#8 ∨ op = 0xE7#8 ∨ op = 0xED#8 ∨ op = 0xEF#8 then .error .widePortAccess
    else if op = 0x66#8 ∨ op = 0x67#8 ∨ op = 0xF0#8 then .error .prefixByte
    else .error .outsideSpec

/-- The encoder: the bytes of an instruction, in fetch order (the table of 30_encoding.md section 4). -/
def encode : Instr → List Byte
  | .ltr r => [0x0F#8, 0x00#8, modrmByte 3#3 r.bits]
  | .str r => [0x0F#8, 0x00#8, modrmByte 1#3 r.bits]
  | .movR32Dr r n => [0x0F#8, 0x21#8, modrmByte n.bits r.bits]
  | .movDrR32 n r => [0x0F#8, 0x23#8, modrmByte n.bits r.bits]
  | .hlt => [0xF4#8]
  | .loop i => [0xE2#8, i]
  | .cpuid => [0x0F#8, 0xA2#8]
  | .int3 => [0xCC#8]
  | .outImmAl p => [0xE6#8, p]
  | .inAlImm p => [0xE4#8, p]
  | .outDxAl => [0xEE#8]
  | .inAlDx => [0xEC#8]
  | .movR8Imm r i => [0x16#5 ++ r.bits, i]
  | .movR8R8 d s => [0x88#8, modrmByte s.bits d.bits]

/-- How many bytes the longest instruction of the spec has. -/
def longestInstr : Nat := 3

/-- The `n` bytes of a number, the least significant first. -/
def bytesLow : Nat → Nat → List Byte
  | 0, _ => []
  | n + 1, w => BitVec.ofNat 8 w :: bytesLow n (w / 256)

/-- The bytes of an opcode-table word in fetch order, with zeros up to the longest instruction. The table writes
"the first fetched byte in the most significant place" (30_encoding.md section 4), so the bytes are taken
from the top down; a word that is no instruction read so, but is one with its first byte in the lowest place,
is laid out that way. Assumption log 20. -/
def tableBytes (nbits w : Nat) : List Byte :=
  let low := bytesLow ((nbits + 7) / 8) w
  let pad := List.replicate longestInstr 0#8
  match decode (low.reverse ++ pad), decode (low ++ pad) with
  | .error _, .ok _ => (low ++ pad).take (max longestInstr low.length)
  | _, _ => (low.reverse ++ pad).take (max longestInstr low.length)

/-- The instruction the decoder reads from an opcode-table word. -/
def decodeTableWord (nbits w : Nat) : Option Instr :=
  match decode (tableBytes nbits w) with
  | .ok (i, _) => some i
  | .error _ => none

end Sys2Proof
end

