-- ==== Sys2Proof/Machine/State.lean ====
section
/-! DEFINITION. The state of the machine as plain data, the reasons a step stops, and the state after reset.
Every field is named by a rule of 10_state.md, or is listed in INVENTORY.md as the model's own. -/

namespace Sys2Proof.Machine

/-- `ADDR_SIZE` (R158): the address size in force, which picks CX or ECX for LOOP and the width of the program
counter (R143). -/
inductive AddrSize where
  | bits16 | bits32
deriving DecidableEq, Repr

/-- The two ways into "low power suspend mode": a HLT with SUSP_HLT = 1, and the SUSP# pin (R377). -/
inductive SuspendWay where
  | hlt | pin
deriving DecidableEq, Repr

/-- Whether instructions are executed, or the run has ended at a halt or in "low power suspend mode" (R270, R377). -/
inductive Activity where
  | running
  | halted
  | suspended (way : SuspendWay)
deriving DecidableEq, Repr

/-- The two kinds of TSS (R194). -/
inductive TssKind where
  | tss16 | tss32
deriving DecidableEq, Repr

/-- The widths of a memory access: "byte, word, or dword" (R109). -/
inductive Width where
  | byte | word | dword
deriving DecidableEq, Repr

/-- The kind of a data access, as breakpoints tell them apart (R316). -/
inductive AccessKind where
  | read | write
deriving DecidableEq, Repr

/-- The outputs of the attribute resolution, one record per access (R297). -/
structure Attributes where
  cachePermitted : Bool
  cached : Bool
  writeBack : Bool
  gathered : Bool
  weakLock : Bool
  weakOrder : Bool
  lbaAsserted : Bool
  writeProtected : Bool
deriving DecidableEq, Repr

/-- One data access to memory made by the current instruction: an element of the list `A` of R332, with the byte
store it reached (R103) and the attributes it was made with (R304). -/
structure Access where
  address : BitVec 32
  width : Width
  kind : AccessKind
  systemManagement : Bool
  attributes : Attributes
deriving DecidableEq, Repr

/-- An external I/O cycle of one byte, as the platform sees it (R102, R220). -/
inductive IoCycle where
  | read (port : BitVec 16) (value : BitVec 8)
  | write (port : BitVec 16) (value : BitVec 8)
deriving DecidableEq, Repr

/-- A byte store: (address, byte) pairs with strictly rising addresses. An address not listed holds no value. -/
abbrev Memory := List Host.Cell

/-- What the platform returns on the two pins sampled with a memory access (R297). -/
structure PinSample where
  /-- KEN# asserted. -/
  ken : Bool
  /-- WB/WT# high. -/
  wbwtHigh : Bool
deriving DecidableEq, Repr

/-- The inputs the spec takes from the platform or the caller (R56, 00_scope.md section 4): no rule of the spec
changes one, only the platform does. -/
structure Environment where
  /-- Whether the CPU is in protected mode (R371). -/
  protectedMode : Bool
  /-- The current privilege level (R371). -/
  cpl : BitVec 2
  /-- Whether the CPU is in an SMI service routine (R366, D13). -/
  smm : Bool
  /-- `ADDR_SIZE` (R158). -/
  addrSize : AddrSize
  /-- The base of the code segment: the linear address of an instruction is this base plus `pc` (R52, R315, G19). -/
  csBase : BitVec 32
  /-- The input pin BRDY#, asserted: the bus cycle before is done (R60, R255). -/
  brdy : Bool
  /-- KEN# and WB/WT# as returned for every access that has no sample of its own (R297). -/
  pins : PinSample
  /-- KEN# and WB/WT# as "the platform returns per access" (R297): the first sample is that of the fetch of an
  instruction, the next ones are those of its data accesses, in their order. -/
  samples : List PinSample
  /-- The parameter behind `GdtDescriptor(sel)` of R192: the selectors that have a GDT entry, each with the
  address of its eight bytes in memory. -/
  gdt : List (BitVec 16 × BitVec 32)
  /-- The parameter `IsTssDescriptor` of R192 and R194: the descriptors that are TSS descriptors, with their kind. -/
  tssDescriptors : List (BitVec 64 × TssKind)
deriving DecidableEq, Repr

/-- The asynchronous events of the platform (00_scope.md section 5, R365) and the two operations that the spec
names and no admitted instruction starts (R185, R214). "Each is a step of its own kind". -/
inductive Event where
  /-- Nothing arrives at this boundary between two instructions: the run goes on, so that a later event of the list
  arrives after later instructions (R365). -/
  | quiet
  /-- The RESET pin (R380). -/
  | reset
  /-- The SMI# pin (R366). -/
  | smi
  /-- The NMI input (R367). -/
  | nmi
  /-- A hardware interrupt (R365). -/
  | hardwareInterrupt
  /-- The SUSP# pin (R259, R377). -/
  | suspendRequest
  /-- The platform changes the inputs (R56). -/
  | environment (env : Environment)
  /-- Something starts a task switch (R211, R214). -/
  | taskSwitch
  /-- Something starts a transfer through a gate (R185). -/
  | gateTransfer
deriving DecidableEq, Repr

/-- The six segment registers and the LDT selector register, visible parts (R51). -/
structure SegRegs where
  es : BitVec 16
  cs : BitVec 16
  ss : BitVec 16
  ds : BitVec 16
  fs : BitVec 16
  gs : BitVec 16
  ldtr : BitVec 16
deriving DecidableEq, Repr

/-- The writable bytes of the configuration register file (R10): places 0 to 35 are the indexes C0h to E3h, place
36 is E8h (CCR4) and place 37 is E9h (CCR5). DIR0 and DIR1 are constants of the part and no state (R24). -/
abbrev ConfigFile := Vector (BitVec 8) 38

/-- The machine. -/
structure State where
  /-- EAX, ECX, EDX, EBX, ESP, EBP, ESI, EDI, by register number (R50, R142). -/
  gpr : Vector (BitVec 32) 8
  /-- ES, CS, SS, DS, FS, GS and the LDT selector (R51). -/
  seg : SegRegs
  /-- EIP: the offset of the current instruction in the code segment (R52). -/
  pc : BitVec 32
  /-- EFLAGS (R53). -/
  eflags : BitVec 32
  /-- CR0 (R54). -/
  cr0 : BitVec 32
  /-- CR3 (R54). -/
  cr3 : BitVec 32
  /-- DR0 to DR3 (R35). -/
  dr : Vector (BitVec 32) 4
  /-- DR6, its named bits; every other bit is 0 here and no state (R36, D20). -/
  dr6 : BitVec 32
  /-- DR7, its named bits; every other bit is 0 here and no state (R37, D20). -/
  dr7 : BitVec 32
  /-- The visible selector of the Task Register (R30). -/
  trSelector : BitVec 16
  /-- The hidden part of the Task Register: the raw descriptor (R31). -/
  trHidden : BitVec 64
  /-- Whether the Task Register was ever loaded (R32): there is a current TSS only then (R190). -/
  trLoaded : Bool
  /-- The configuration registers (R10). -/
  cfg : ConfigFile
  /-- `cfg_index`, the index last written to port 22h (R27). -/
  cfgIndex : BitVec 8
  /-- `cfg_armed`, a selection is pending (R27). -/
  cfgArmed : Bool
  /-- Running, halted or suspended (R270, R377). -/
  activity : Activity
  /-- An NMI held pending (R261). -/
  nmiPending : Bool
  /-- Main memory (R100). -/
  mem : Memory
  /-- System management memory, the second store behind the SMM address space (R103, D38). -/
  smmMem : Memory
  /-- The inputs of the platform and the caller (R56). -/
  env : Environment
  /-- The model's own: the platform's events, the next one first (00_scope.md section 5). -/
  events : List Event
  /-- The model's own: the data accesses of the current instruction, the latest first (R332). -/
  accesses : List Access
  /-- The model's own: the external I/O cycles so far, the latest first (R220). -/
  ioCycles : List IoCycle
  /-- The model's own: how many free values were drawn. -/
  draws : Nat
deriving DecidableEq, Repr

/-- The exceptions of the spec (R357). `notPresent` is kept for its name only: no rule raises it (R356). -/
inductive ExceptionName where
  | debug | breakpoint | invalidOpcode | notPresent | generalProtection
deriving DecidableEq, Repr

/-- The reasons a step ends in a fault. -/
inductive Fault where
  /-- An instruction or a breakpoint raises an exception (R357). The spec describes no entry into a handler, so
  the run stops (R360): `code` is the selector or 0 where the rule gives one, `pc` the program counter reported
  and `left` the state as the rule left it. Safe: the hardware goes on in a handler the model does not run. -/
  | exception (name : ExceptionName) (code : Option (BitVec 16)) (pc : BitVec 32) (left : State)
  /-- A hardware interrupt arrives (R365). Safe: its delivery is not described, and a masked one stops too. -/
  | interrupt (left : State)
  /-- A recognized NMI (R365, R367). Safe: its delivery is not described. -/
  | nmi (left : State)
  /-- An SMI that is honoured (R365, R366). Safe: the SMI service routine's entry is not described. -/
  | smi (left : State)
  /-- A read, by a fetch or by LTR, of a byte of memory nothing has written (R384). Safe: no value is invented. -/
  | unwrittenMemory (address : Nat)
  /-- A read of a descriptor (LTR, the decode of a gate) or of a TSS row that would run past the last of the 2^32
  addresses (R100). Safe: what stands past the end of memory is not described (N20). -/
  | outsideMemory (address : Nat)
  /-- A step is asked of a CPU that is halted or suspended, with no event left to come: "no further instruction is
  executed" (R270, D33). Safe: the run has ended, and what ends a halt is not described. -/
  | stopped (activity : Activity)
deriving DecidableEq, Repr

/-- The reasons a step is refused: the rows of R379, each "a situation to which the source gives no meaning".
All are safe: the model stops where the hardware may go on. -/
inductive Refusal where
  /-- An instruction without a meaning in the model; no arm raises it. -/
  | notModelled (mnemonic : String)
  /-- Raised by the fetch: bytes that are no admitted instruction (R141). -/
  | encoding (why : DecodeError)
  /-- Raised by the fetch: an instruction that would run past the last address its program counter reaches; what
  follows that address is not described (N20). -/
  | fetchPastEnd
  /-- Raised by a port 23h access with MAPEN = 2h to Fh at an index that is not always open (R229). -/
  | mapenUndefined (mapen : BitVec 4)
  /-- Raised by a port 23h write with MAPEN = 1h at an index that holds no register (R230). -/
  | noRegisterWritten (index : BitVec 8)
  /-- Raised by a port 23h write of 1 to a reserved bit (R12, R233). -/
  | reservedBitWritten (index : BitVec 8)
  /-- Raised by a read of port 22h while a selection is pending (R222). -/
  | port22ReadWhileArmed
  /-- Raised by a port access in protected mode at a level other than 0 (R355). -/
  | ioPermission
  /-- Raised by an SMI with USE_SMI = 1 and SM3 = 0 (R251). -/
  | useSmiWithoutSm3
  /-- Raised by CPUID with CCR4.CPUID = 1, whose results are in a section no source holds (R272). -/
  | cpuidResults
  /-- Raised by a cacheable write into 640 KByte to 1 MByte with WPR1 = 1 (R258). -/
  | writeProtectedRegion1 (address : BitVec 32)
  /-- Raised by any memory access while an active region does not start on a block boundary (R283). -/
  | regionMisaligned (region : Fin 8)
  /-- Raised before an instruction by an enabled breakpoint with R/W = 10b, "Not used" (R317). -/
  | breakpointTypeNotUsed (breakpoint : Fin 4)
  /-- Raised before an instruction by an enabled breakpoint with LEN = 10b, "Not used" (R318). -/
  | breakpointLengthNotUsed (breakpoint : Fin 4)
  /-- Raised before an instruction by an enabled execution breakpoint longer than a byte (R316). -/
  | executionBreakpointLength (breakpoint : Fin 4)
  /-- Raised by MOV with debug register number 4 or 5 (R333). -/
  | debugRegisterNumber (number : DrNum)
  /-- Raised by an event that starts a transfer through a gate (R185). -/
  | gateTransfer
  /-- Raised by an event that starts a task switch (R214). -/
  | taskSwitch
  /-- Raised by a memory access that is not naturally aligned, no `MISALIGNED_POLICY` being given (R108, D2). -/
  | misalignedAccess (address : BitVec 32)
deriving DecidableEq, Repr

/-- What an operation answers: a value, a fault or a refusal. -/
abbrev Result (α : Type) := Host.Outcome α Fault Refusal

/-- The configuration file after reset: all zero but CCR4.IORT = 5h (R11, R17, R381). -/
def ConfigFile.reset : ConfigFile := (Vector.replicate 38 0#8).set 36 0x05#8

/-- The inputs a run from reset starts with: real mode at level 0, 16-bit addresses, the code segment based so
that the first fetch is 16 bytes below the top of memory (R383, G23). Assumption logs 3 and 4. -/
def Environment.reset : Environment where
  protectedMode := false
  cpl := 0#2
  smm := false
  addrSize := .bits16
  csBase := 0xFFFF0000#32
  brdy := true
  pins := ⟨true, true⟩
  samples := []
  gdt := []
  tssDescriptors := []

/-- The machine right after reset. The configuration registers and `cfg_armed` are as R381 and R382 say; the spec
gives no other reset value, and the rest is named in assumption logs 2 and 3. -/
def State.reset : State where
  gpr := Vector.replicate 8 0#32
  seg := { es := 0#16, cs := 0xF000#16, ss := 0#16, ds := 0#16, fs := 0#16, gs := 0#16, ldtr := 0#16 }
  pc := 0x0000FFF0#32
  eflags := 0x00000002#32
  cr0 := 0x60000010#32
  cr3 := 0#32
  dr := Vector.replicate 4 0#32
  dr6 := 0#32
  dr7 := 0#32
  trSelector := 0#16
  trHidden := 0#64
  trLoaded := false
  cfg := ConfigFile.reset
  cfgIndex := 0#8
  cfgArmed := false
  activity := .running
  nmiPending := false
  mem := []
  smmMem := []
  env := Environment.reset
  events := []
  accesses := []
  ioCycles := []
  draws := 0

end Sys2Proof.Machine
end

