-- ==== Sys2Proof/Machine/ConfigRegs.lean ====
section
/-! DEFINITION. The configuration registers by index and by field (10_state.md rules R10 to R26) and the bytes of
the Address Region Registers. What a field does is in Regions.lean, ConfigAccess.lean and ConfigControl.lean. -/

namespace Sys2Proof.Machine

/-- The place in the file of a writable register's index: C0h to E3h, E8h, E9h (R10). -/
def configPlace (i : BitVec 8) : Option (Fin 38) :=
  if h : 0xC0 ≤ i.toNat ∧ i.toNat ≤ 0xE3 then some ⟨i.toNat - 0xC0, by omega⟩
  else if i = 0xE8#8 then some 36
  else if i = 0xE9#8 then some 37
  else none

/-- `cfg[i]` as an on-chip read returns it (R232): a writable register as stored, `DEVID` at FEh, `SID ++ RID` at
FFh (R25, R26). At an index that holds no register it is never read; 0 only makes it total. -/
def configByte (cf : ConfigFile) (i : BitVec 8) : BitVec 8 :=
  match configPlace i with
  | some p => cf[p]
  | none => if i = 0xFE#8 then Config.devid else if i = 0xFF#8 then Config.sid ++ Config.rid else 0#8

/-- `cfg[i] <- v` (00_scope.md section 6); DIR0, DIR1 and the indexes without a register cannot be changed (R24). -/
def configStore (cf : ConfigFile) (i v : BitVec 8) : ConfigFile :=
  match configPlace i with
  | some p => cf.set p v
  | none => cf

/-- CCR0, index C0h (R13). -/
def ccr0 (cf : ConfigFile) : BitVec 8 := cf[0]
/-- CCR1, index C1h (R14). -/
def ccr1 (cf : ConfigFile) : BitVec 8 := cf[1]
/-- CCR2, index C2h (R15). -/
def ccr2 (cf : ConfigFile) : BitVec 8 := cf[2]
/-- CCR3, index C3h (R16). -/
def ccr3 (cf : ConfigFile) : BitVec 8 := cf[3]
/-- CCR4, index E8h (R17). -/
def ccr4 (cf : ConfigFile) : BitVec 8 := cf[36]
/-- CCR5, index E9h (R18). -/
def ccr5 (cf : ConfigFile) : BitVec 8 := cf[37]

/-- CCR0.NC1 (R13). -/
def nc1 (cf : ConfigFile) : Bool := (ccr0 cf).getLsbD 1
/-- CCR1.USE_SMI (R14). -/
def useSmi (cf : ConfigFile) : Bool := (ccr1 cf).getLsbD 1
/-- CCR1.SMAC (R14). -/
def smac (cf : ConfigFile) : Bool := (ccr1 cf).getLsbD 2
/-- CCR1.NO_LOCK (R14). -/
def noLock (cf : ConfigFile) : Bool := (ccr1 cf).getLsbD 4
/-- CCR1.SM3 (R14). -/
def sm3 (cf : ConfigFile) : Bool := (ccr1 cf).getLsbD 7
/-- CCR2.SADS (R15). -/
def sads (cf : ConfigFile) : Bool := (ccr2 cf).getLsbD 1
/-- CCR2.LOCK_NW (R15). -/
def lockNw (cf : ConfigFile) : Bool := (ccr2 cf).getLsbD 2
/-- CCR2.SUSP_HLT (R15). -/
def suspHlt (cf : ConfigFile) : Bool := (ccr2 cf).getLsbD 3
/-- CCR2.WPR1 (R15). -/
def wpr1 (cf : ConfigFile) : Bool := (ccr2 cf).getLsbD 4
/-- CCR2.USE_SUSP (R15). -/
def useSusp (cf : ConfigFile) : Bool := (ccr2 cf).getLsbD 7
/-- CCR3.SMI_LOCK (R16). -/
def smiLock (cf : ConfigFile) : Bool := (ccr3 cf).getLsbD 0
/-- CCR3.NMI_EN (R16). -/
def nmiEn (cf : ConfigFile) : Bool := (ccr3 cf).getLsbD 1
/-- CCR3.LINBRST (R16). -/
def linbrst (cf : ConfigFile) : Bool := (ccr3 cf).getLsbD 2
/-- CCR3.MAPEN, bits 7:4 (R16, C10). -/
def mapen (cf : ConfigFile) : BitVec 4 := (ccr3 cf).extractLsb' 4 4
/-- CCR4.IORT, bits 2:0 (R17). -/
def iort (cf : ConfigFile) : BitVec 3 := (ccr4 cf).extractLsb' 0 3
/-- CCR4.DTE_EN (R17). -/
def dteEn (cf : ConfigFile) : Bool := (ccr4 cf).getLsbD 4
/-- CCR4.CPUID (R17). -/
def cpuidEnabled (cf : ConfigFile) : Bool := (ccr4 cf).getLsbD 7
/-- CCR5.WT_ALLOC (R18). -/
def wtAlloc (cf : ConfigFile) : Bool := (ccr5 cf).getLsbD 0
/-- CCR5.SLOP (R18). -/
def slop (cf : ConfigFile) : Bool := (ccr5 cf).getLsbD 1
/-- CCR5.LBR1 (R18). -/
def lbr1 (cf : ConfigFile) : Bool := (ccr5 cf).getLsbD 4
/-- CCR5.ARREN (R18). -/
def arren (cf : ConfigFile) : Bool := (ccr5 cf).getLsbD 5

/-- The byte at `cfg[C4h + 3n + k]`: byte `k` of ARRn, the most significant first (R19). -/
def arrByte (cf : ConfigFile) (n : Fin 8) (k : Fin 3) : BitVec 8 := cf[4 + 3 * n.val + k.val]
/-- ARRn.START, address bits A31 to A12 (R19). -/
def arrStart (cf : ConfigFile) (n : Fin 8) : BitVec 20 :=
  arrByte cf n 0 ++ arrByte cf n 1 ++ (arrByte cf n 2).extractLsb' 4 4
/-- ARRn.SIZE (R19). -/
def arrSize (cf : ConfigFile) (n : Fin 8) : BitVec 4 := (arrByte cf n 2).extractLsb' 0 4
/-- RCRn, index DCh + n (R22). -/
def rcr (cf : ConfigFile) (n : Fin 8) : BitVec 8 := cf[28 + n.val]

/-- RCRn.NLB (R22, R296). -/
def nlb (cf : ConfigFile) (n : Fin 8) : Bool := (rcr cf n).getLsbD 5
/-- RCRn.WT (R22, R295). -/
def wt (cf : ConfigFile) (n : Fin 8) : Bool := (rcr cf n).getLsbD 4
/-- RCRn.WG (R22, R294). -/
def wg (cf : ConfigFile) (n : Fin 8) : Bool := (rcr cf n).getLsbD 3
/-- RCRn.WL (R22, R293). -/
def wl (cf : ConfigFile) (n : Fin 8) : Bool := (rcr cf n).getLsbD 2
/-- RCRn.WWO (R22, R292). -/
def wwo (cf : ConfigFile) (n : Fin 8) : Bool := (rcr cf n).getLsbD 1
/-- Bit 0 of RCRn: RCD for n = 0 to 6, RCE for n = 7 (R22). -/
def rcdRce (cf : ConfigFile) (n : Fin 8) : Bool := (rcr cf n).getLsbD 0

/-- The reserved bits of the register at an index (R12, R233): CCR0 FDh, CCR1 69h, CCR2 61h (C1), CCR3 08h, CCR4
68h, CCR5 CCh (C2), every RCR C0h, no other. -/
def reservedMask (i : BitVec 8) : BitVec 8 :=
  if i = 0xC0#8 then 0xFD#8
  else if i = 0xC1#8 then 0x69#8
  else if i = 0xC2#8 then 0x61#8
  else if i = 0xC3#8 then 0x08#8
  else if 0xDC ≤ i.toNat ∧ i.toNat ≤ 0xE3 then 0xC0#8
  else if i = 0xE8#8 then 0x68#8
  else if i = 0xE9#8 then 0xCC#8
  else 0#8

/-- The bits SMI_LOCK covers in the register at an index (R233, R235): SM3, SMAC and USE_SMI of CCR1, NMI_EN of
CCR3, all of ARR3. -/
def lockMask (i : BitVec 8) : BitVec 8 :=
  if i = 0xC1#8 then 0x86#8
  else if i = 0xC3#8 then 0x02#8
  else if i = 0xCD#8 ∨ i = 0xCE#8 ∨ i = 0xCF#8 then 0xFF#8
  else 0#8

end Sys2Proof.Machine
end

