-- ==== Sys2Proof/Machine/Flags.lean ====
section
/-! DEFINITION. EFLAGS and CR0: the named bits and the two gated writes. No admitted instruction sets a flag
(R53, R155, R156, R271), so there is no flag computation; the bit positions are the spec's general-knowledge
entries G5 and G6. -/

namespace Sys2Proof.Machine

/-- EFLAGS.TF, bit 8: single step (R53, R326). -/
def State.tf (s : State) : Bool := s.eflags.getLsbD 8

/-- EFLAGS.ID, bit 21 (R53, R265). -/
def State.idFlag (s : State) : Bool := s.eflags.getLsbD 21

/-- The mask of EFLAGS.ID. -/
def idMask : BitVec 32 := 0x00200000#32

/-- A write of EFLAGS: with CCR4.CPUID = 0 the ID bit stays as it was, with CCR4.CPUID = 1 it is stored like any
writable flag (R265). That the bits the source does not name, every one but TF and ID (R53), are stored as written is the
model's choice: assumption log 45. The instructions that write EFLAGS are outside the source. -/
def State.writeEflags (s : State) (v : BitVec 32) : State :=
  if cpuidEnabled s.cfg then { s with eflags := v }
  else { s with eflags := (s.eflags &&& idMask) ||| (v &&& ~~~idMask) }

/-- FLAGS, the 16-bit form of EFLAGS (R53). -/
def State.flags16 (s : State) : BitVec 16 := s.eflags.extractLsb' 0 16

/-- The mask of CR0.NW, bit 29 (R54). -/
def nwMask : BitVec 32 := 0x20000000#32

/-- A write of CR0: with CCR2.LOCK_NW = 1 "the CPU ignores any writes to the NW bit" and stores every other bit
(R256). The instruction that writes CR0 is outside the source. -/
def State.writeCr0 (s : State) (v : BitVec 32) : State :=
  if lockNw s.cfg then { s with cr0 := (s.cr0 &&& nwMask) ||| (v &&& ~~~nwMask) }
  else { s with cr0 := v }

end Sys2Proof.Machine
end

