-- ==== Sys2Proof/Machine/Regions.lean ====
section
/-! DEFINITION. Address regions and the attributes they give a memory access (44_address_regions.md), and which of
the two byte stores an access reaches (R103, R252). -/

namespace Sys2Proof.Machine

/-- The eight regions, in the order the resolution visits them (R304). -/
def regionNumbers : List (Fin 8) := [0, 1, 2, 3, 4, 5, 6, 7]

/-- `start(n)`, the first byte of region n: ARRn.START with twelve zero bits below (R281). -/
def regionStart (c : ConfigFile) (n : Fin 8) : Nat := (arrStart c n).toNat * 4096

/-- The block size Table 2-18 gives a SIZE value, in the ARR7 column for region 7 and in the other for the rest
(R21, R282, C11). -/
def blockSize (n : Fin 8) (size : BitVec 4) : Nat :=
  if size = 0#4 then 0
  else if size = 15#4 then 2 ^ 32
  else if n = 7 then 2 ^ (17 + size.toNat)
  else 2 ^ (11 + size.toNat)

/-- `blk(n)` (R282). -/
def regionSize (c : ConfigFile) (n : Fin 8) : Nat := blockSize n (arrSize c n)

/-- `enabled(n)` (R284). -/
def regionEnabled (c : ConfigFile) (n : Fin 8) : Bool := arren c || (n == 3 && sm3 c)

/-- `active(n)`: enabled and not of zero size (R285). -/
def regionActive (c : ConfigFile) (n : Fin 8) : Bool := regionEnabled c n && arrSize c n != 0#4

/-- An active region that does not start on a block size boundary (R283). -/
def regionUnaligned (c : ConfigFile) (n : Fin 8) : Bool :=
  regionActive c n && regionStart c n % regionSize c n != 0

/-- Whether the address `a` hits region n, on unbounded naturals (R285). -/
def regionHit (c : ConfigFile) (n : Fin 8) (a : Nat) : Bool :=
  regionActive c n && decide (regionStart c n ≤ a) && decide (a < regionStart c n + regionSize c n)

/-- `H(a)`, the regions an address hits (R285). -/
def hitRegions (c : ConfigFile) (a : Nat) : List (Fin 8) := regionNumbers.filter fun n => regionHit c n a

/-- The fixed region 640 KByte to 1 MByte (R104). -/
def inRegion1 (a : Nat) : Bool := decide (0x000A0000 ≤ a) && decide (a ≤ 0x000FFFFF)

/-- What one region says of cacheability: RCD for n ≤ 6, the opposite of RCE for n = 7 (R299, R291). -/
def regionNoncacheable (c : ConfigFile) (n : Fin 8) : Bool := if n = 7 then !rcdRce c n else rcdRce c n

/-- An attribute that holds only when every region hit gives it, and never without a region: WG, WL, WWO and NLB
(R298, R299). -/
def givenByAll (hits : List (Fin 8)) (f : Fin 8 → Bool) : Bool := !hits.isEmpty && hits.all f

/-- Whether the regions and CCR0.NC1 forbid caching (R299, R291, R302). `rceOutside` is the parameter
RCE_OUTSIDE_NONCACHEABLE. -/
def noncacheable (rceOutside : Bool) (c : ConfigFile) (a : Nat) : Bool :=
  (hitRegions c a).any (regionNoncacheable c)
    || (regionActive c 7 && rcdRce c 7 && !(hitRegions c a).contains 7 && rceOutside)
    || (inRegion1 a && nc1 c)

/-- The attributes of an access to `a` when no active region is misaligned (R297 to R304). -/
def resolveAttributes (rceOutside : Bool) (c : ConfigFile) (ken wbwtHigh : Bool) (a : Nat) : Attributes :=
  let hits := hitRegions c a
  let permitted := !noncacheable rceOutside c a
  let cached := permitted && ken
  { cachePermitted := permitted
    cached := cached
    writeBack := cached && !hits.any (wt c) && wbwtHigh
    gathered := givenByAll hits (wg c)
    weakLock := givenByAll hits (wl c) || noLock c
    weakOrder := givenByAll hits (wwo c)
    lbaAsserted := !givenByAll hits (nlb c) || (inRegion1 a && lbr1 c)
    writeProtected := inRegion1 a && wpr1 c && permitted }

/-- `Attributes(a, ken, wbwt_high)` (R304): refused, with the first such region, while an active region is
misaligned, whether or not `a` lies near it (R283, D14). -/
def attributesOf (rceOutside : Bool) (c : ConfigFile) (ken wbwtHigh : Bool) (a : Nat) : Except (Fin 8) Attributes :=
  match regionNumbers.find? (regionUnaligned c) with
  | some n => .error n
  | none => .ok (resolveAttributes rceOutside c ken wbwtHigh a)

/-- What the platform returns on KEN# and WB/WT# for access `k` of an instruction, its fetch being access 0 (R297). -/
def State.pinSample (s : State) (k : Nat) : PinSample := s.env.samples.getD k s.env.pins

/-- The attributes of access `k` of the current instruction, with its pins and the part's parameter (R297). -/
def State.attributesAt (s : State) (k a : Nat) : Except (Fin 8) Attributes :=
  attributesOf Config.rceOutsideNoncacheable s.cfg (s.pinSample k).ken (s.pinSample k).wbwtHigh a

/-- The attributes of the next data access of the current instruction. -/
def State.attributes (s : State) (a : Nat) : Except (Fin 8) Attributes := s.attributesAt (s.accesses.length + 1) a

/-- Whether `a` lies in the SMM address space: Address Region 3 while SM3 = 1 (R254); empty with SIZE = 0. -/
def inSmmSpace (c : ConfigFile) (a : Nat) : Bool :=
  sm3 c && decide (regionStart c 3 ≤ a) && decide (a < regionStart c 3 + regionSize c 3)

/-- Whether an access to `a` reaches system management memory instead of main memory: in the SMM address space with
SMAC = 1, or inside an SMI service routine (R252, D38). Assumption log 9. -/
def State.reachesSmm (s : State) (a : Nat) : Bool := inSmmSpace s.cfg a && (smac s.cfg || s.env.smm)

/-- The bus cycles that locking tells apart (R111, R127). Which instructions make a locked cycle is not in the source
(N15). -/
inductive BusCycleKind where
  | unlocked | locked | pageTable | interruptAcknowledge
deriving DecidableEq, Repr

/-- Whether a cycle is executed as a locked one (R111, R127): under weak locking a locked cycle is "executed as
unlocked", while page table accesses and interrupt acknowledge cycles stay locked in their execution. -/
def Attributes.executesLocked (t : Attributes) : BusCycleKind → Bool
  | .unlocked => false
  | .locked => !t.weakLock
  | .pageTable | .interruptAcknowledge => true

/-- Whether a cycle is cached: one that is executed as locked is "performed as a non-cacheable cycle" even at a
cacheable location, one that weak locking lets run unlocked may be cached (R111, R127). -/
def Attributes.cycleCached (t : Attributes) (k : BusCycleKind) : Bool := t.cached && !t.executesLocked k

/-- CR0.CD, "the cache has been disabled" (R119, R303, G30). -/
def State.cacheDisabled (s : State) : Bool := s.cr0.getLsbD 30

/-- Whether the cache allocates a line on a miss of a cycle: on read misses, and on write misses with WT_ALLOC = 1
(R125, R266), and on none while CR0.CD = 1 (R303). -/
def State.allocatesOnMiss (s : State) (k : AccessKind) (c : BusCycleKind) (t : Attributes) : Bool :=
  t.cycleCached c && (k == .read || wtAlloc s.cfg) && !s.cacheDisabled

/-- Where weak write ordering reaches (R119, R303): an access "cached and designated as write-back", and an address
that was cached earlier, "even if the cache has been disabled". Whether the cache still holds the address is an
argument, since the cache is no state of the model (assumption log 25). -/
def State.mayReorder (s : State) (t : Attributes) (cachedEarlier : Bool) : Bool :=
  t.weakOrder && (cachedEarlier || (t.cached && t.writeBack && !s.cacheDisabled))

end Sys2Proof.Machine
end

