-- ==== Sys2Proof/Machine/Ops.lean ====
section
/-! DEFINITION. The named operations over registers and memory that the meanings share, and taking an exception. -/

namespace Sys2Proof.Machine

/-! ### Sequencing -/

/-- Go on with what an operation answers; a fault or a refusal ends the whole. -/
def andThen {α β : Type} (x : Result α) (f : α → Result β) : Result β :=
  match x with
  | .next a => f a
  | .fault r => .fault r
  | .refused r => .refused r

/-! ### General registers -/

/-- The place of a general register in the file, its number in R142. -/
def GReg.place : GReg → Fin 8
  | .a => 0 | .c => 1 | .d => 2 | .b => 3 | .sp => 4 | .bp => 5 | .si => 6 | .di => 7

/-- The general register an 8-bit register is part of (R50, G3). -/
def Reg8.parent : Reg8 → GReg
  | .al | .ah => .a
  | .cl | .ch => .c
  | .dl | .dh => .d
  | .bl | .bh => .b

/-- The lowest bit an 8-bit register has in its general register: AL is bits 7:0 of EAX, AH bits 15:8 (R50, G3). -/
def Reg8.shift : Reg8 → Nat
  | .al | .cl | .dl | .bl => 0
  | .ah | .ch | .dh | .bh => 8

/-- `x[r32]` (R50). -/
def State.reg32 (s : State) (r : GReg) : BitVec 32 := s.gpr[GReg.place r]

/-- `x[r32] <- v`. -/
def State.setReg32 (s : State) (r : GReg) (v : BitVec 32) : State := { s with gpr := s.gpr.set (GReg.place r) v }

/-- `x[r16]`: the low half of the 32-bit register (R50, G3). -/
def State.reg16 (s : State) (r : GReg) : BitVec 16 := (s.reg32 r).extractLsb' 0 16

/-- `x[r16] <- v`; the high half is unchanged (R50, G3). -/
def State.setReg16 (s : State) (r : GReg) (v : BitVec 16) : State :=
  s.setReg32 r ((s.reg32 r).extractLsb' 16 16 ++ v)

/-- `x[r8]` (R50, G3). -/
def State.reg8 (s : State) (r : Reg8) : BitVec 8 := (s.reg32 (Reg8.parent r)).extractLsb' (Reg8.shift r) 8

/-- A dword with the byte at bits `k + 7` to `k` replaced. -/
def putByte (x : BitVec 32) (k : Nat) (v : BitVec 8) : BitVec 32 :=
  (x &&& ~~~(0xFF#32 <<< k)) ||| (v.setWidth 32 <<< k)

/-- `x[r8] <- v`: "the other bytes of the 32-bit register that contains r8 are unchanged" (R155). -/
def State.setReg8 (s : State) (r : Reg8) (v : BitVec 8) : State :=
  s.setReg32 (Reg8.parent r) (putByte (s.reg32 (Reg8.parent r)) (Reg8.shift r) v)

/-! ### Single fields -/

/-- `pc <- v`. -/
def State.setPc (s : State) (v : BitVec 32) : State := { s with pc := v }

/-- `cfg <- c`. -/
def State.setCfg (s : State) (c : ConfigFile) : State := { s with cfg := c }

/-- A selection at port 22h: `cfg_index <- v; cfg_armed <- true` (R221). -/
def State.select (s : State) (v : BitVec 8) : State := { s with cfgIndex := v, cfgArmed := true }

/-- `cfg_armed <- false` (R223). -/
def State.disarm (s : State) : State := { s with cfgArmed := false }

/-- `DRi <- v`, i = 0 to 3 (R312). -/
def State.setDr (s : State) (i : Fin 4) (v : BitVec 32) : State := { s with dr := s.dr.set i v }

/-- `DR6 <- v`. -/
def State.setDr6 (s : State) (v : BitVec 32) : State := { s with dr6 := v }

/-- `DR7 <- v`. -/
def State.setDr7 (s : State) (v : BitVec 32) : State := { s with dr7 := v }

/-- The Task Register loaded with a selector and its descriptor (R192). -/
def State.loadTr (s : State) (sel : BitVec 16) (desc : BitVec 64) : State :=
  { s with trSelector := sel, trHidden := desc, trLoaded := true }

/-- The run goes on, halts or is suspended. -/
def State.setActivity (s : State) (a : Activity) : State := { s with activity := a }

/-- The platform's inputs replaced (R56). -/
def State.setEnv (s : State) (e : Environment) : State := { s with env := e }

/-- The events still to come. -/
def State.setEvents (s : State) (es : List Event) : State := { s with events := es }

/-- The state past a boundary at which no event arrives (R365). -/
def State.passQuiet (s : State) : State :=
  match s.events with
  | .quiet :: es => s.setEvents es
  | _ => s

/-- An NMI held pending or not. -/
def State.setNmiPending (s : State) (b : Bool) : State := { s with nmiPending := b }

/-- The list of data accesses emptied: what each instruction starts with (R332). -/
def State.clearAccesses (s : State) : State := { s with accesses := [] }

/-- A data access recorded (R332). -/
def State.record (s : State) (a : Access) : State := { s with accesses := a :: s.accesses }

/-- An external I/O cycle recorded (R220). -/
def State.emit (s : State) (c : IoCycle) : State := { s with ioCycles := c :: s.ioCycles }

/-- An external I/O cycle recorded where a parameter of the platform says there is one (R221). -/
def State.emitIf (s : State) (b : Bool) (c : IoCycle) : State :=
  { s with ioCycles := if b then c :: s.ioCycles else s.ioCycles }

/-- One free value drawn. -/
def State.tick (s : State) : State := { s with draws := s.draws + 1 }

/-! ### The program counter -/

/-- One past the largest program counter: its width is the address size in force (R143, R158). -/
def State.pcLimit (s : State) : Nat :=
  match s.env.addrSize with
  | .bits16 => 2 ^ 16
  | .bits32 => 2 ^ 32

/-- `pc <- pc + n` (R52). Where that leaves the range the program counter counts in, the spec gives no value ("wrap-around
are all not in source", R52, N20) and the new pc is free. Assumption log 18. -/
def State.advance (s : State) (n : Nat) : State :=
  if s.pc.toNat + n < s.pcLimit then s.setPc (s.pc + BitVec.ofNat 32 n)
  else (s.setPc (Config.freeDword s.draws)).tick

/-- The pc of the next instruction, in the state an instruction left (R326, R332): its `pc`, but after a HLT, which alone
ends the run and leaves `pc` at itself (R270), the address of the byte after it. -/
def State.nextPc (t : State) : BitVec 32 := if t.activity = .running then t.pc else (t.advance 1).pc

/-- The linear address of the current instruction, as a natural: the segment base plus `pc` (R315, G19). -/
def State.instrAddress (s : State) : Nat := s.env.csBase.toNat + s.pc.toNat

/-! ### The byte stores -/

/-- The byte an address holds, if it holds one. -/
def Memory.read : Memory → Nat → Option Byte
  | [], _ => none
  | (k, b) :: m, a => if k = a then some b else Memory.read m a

/-- One byte stored, the addresses kept strictly rising. -/
def Memory.write : Memory → Nat → Byte → Memory
  | [], a, b => [(a, b)]
  | (k, x) :: m, a, b =>
    if a < k then (a, b) :: (k, x) :: m
    else if a = k then (a, b) :: m
    else (k, x) :: Memory.write m a b

/-- The addresses rise strictly from `lo` on and stay below 2^32 (R100). -/
def Memory.wfFrom : Nat → Memory → Bool
  | _, [] => true
  | lo, (k, _) :: m => decide (lo ≤ k) && decide (k < 2 ^ 32) && Memory.wfFrom (k + 1) m

/-- The canonical form of a byte store. An address not listed holds no value, so no entry can equal what an
unlisted address reads as. Assumption log 5. -/
def Memory.wf (m : Memory) : Bool := Memory.wfFrom 0 m

/-- The byte at an address of the store the access reaches (R103). -/
def State.loadByte (s : State) (a : Nat) : Option Byte :=
  if s.reachesSmm a then Memory.read s.smmMem a else Memory.read s.mem a

/-- One byte stored into the store the access reaches (R103). -/
def State.storeByte (s : State) (a : Nat) (b : Byte) : State :=
  if s.reachesSmm a then { s with smmMem := Memory.write s.smmMem a b }
  else { s with mem := Memory.write s.mem a b }

/-- The bytes at `a .. a+n-1`, or the first address of them that holds no value. -/
def State.loadBytes (s : State) (a : Nat) : Nat → Except Nat (List Byte)
  | 0 => .ok []
  | n + 1 =>
    match s.loadByte a with
    | none => .error a
    | some b =>
      match s.loadBytes (a + 1) n with
      | .error e => .error e
      | .ok bs => .ok (b :: bs)

/-- The bytes stored at `a`, `a+1`, ... in order. -/
def State.storeBytes (s : State) (a : Nat) : List Byte → State
  | [] => s
  | b :: bs => (s.storeByte a b).storeBytes (a + 1) bs

/-- Bytes as one number, little-endian (R106, D1). -/
def leValue : List Byte → BitVec 32
  | [] => 0#32
  | b :: bs => (leValue bs <<< 8) ||| b.setWidth 32

/-- The low `n` bytes of a number, little-endian (R106, D1). -/
def leBytes : Nat → BitVec 32 → List Byte
  | 0, _ => []
  | n + 1, v => v.setWidth 8 :: leBytes n (v >>> 8)

/-- How many bytes an access has (R109). -/
def Width.bytes : Width → Nat
  | .byte => 1
  | .word => 2
  | .dword => 4

/-- The checks every memory access passes: natural alignment, unless the policy says what a misaligned access does
(R108, D2), then the end of memory (R100), then the attribute resolution (R304). -/
def State.checkAccess (s : State) (a : BitVec 32) (w : Width) : Result Attributes :=
  if a.toNat % w.bytes ≠ 0 ∧ Config.misalignedPolicy = .notGiven then .refused (.misalignedAccess a)
  else if 2 ^ 32 < a.toNat + w.bytes then .fault (.outsideMemory (a.toNat + w.bytes))
  else
    match s.attributes a.toNat with
    | .error n => .refused (.regionMisaligned n)
    | .ok t => .next t

/-- `MemRead(addr, n)`: the value, and the state with the access recorded. -/
def State.memRead (s : State) (a : BitVec 32) (w : Width) : Result (BitVec 32 × State) :=
  andThen (s.checkAccess a w) fun t =>
    match s.loadBytes a.toNat w.bytes with
    | .error e => .fault (.unwrittenMemory e)
    | .ok bs => .next (leValue bs, s.record ⟨a, w, .read, s.reachesSmm a.toNat, t⟩)

/-- `MemWrite(addr, n, v)`: refused where the access is write protected (R258, D18). No admitted instruction stores
to memory. -/
def State.memWrite (s : State) (a : BitVec 32) (w : Width) (v : BitVec 32) : Result State :=
  andThen (s.checkAccess a w) fun t =>
    if t.writeProtected then .refused (.writeProtectedRegion1 a)
    else .next ((s.storeBytes a.toNat (leBytes w.bytes v)).record ⟨a, w, .write, s.reachesSmm a.toNat, t⟩)

/-- `MemRead(base + offset, n)` of a row of a structure in memory, whose bytes must all have an address (R100). Assumption
log 8. -/
def State.readRow (s : State) (base : BitVec 32) (offset : Nat) (w : Width) : Result (BitVec 32 × State) :=
  if 2 ^ 32 < base.toNat + offset + w.bytes then .fault (.outsideMemory (base.toNat + offset + w.bytes))
  else s.memRead (base + BitVec.ofNat 32 offset) w

/-- The eight bytes of a descriptor in memory, read as the two dwords at `d` and `d + 4` (R105, R171, R179). -/
def State.readDescriptor (s : State) (d : BitVec 32) : Result (BitVec 64 × State) :=
  andThen (s.readRow d 0 .dword) fun lo =>
    andThen (lo.2.readRow d 4 .dword) fun hi => .next (hi.1 ++ lo.1, hi.2)

/-! ### Fetching an instruction -/

/-- Why the bytes of an instruction end. -/
inductive FetchEnd where
  | enough
  | pastEnd
  | unwritten (address : Nat)
deriving DecidableEq, Repr

/-- Whether the byte `k` of the instruction at `pc` has an address: the program counter and the linear address both
stay in range; what follows their last value is not described (N20). -/
def State.fetchable (s : State) (k : Nat) : Bool :=
  decide (s.pc.toNat + k < s.pcLimit) && decide (s.instrAddress + k < 2 ^ 32)

/-- At most `n` bytes of the instruction from its byte `k` on, and why they end. -/
def State.fetchFrom (s : State) : Nat → Nat → List Byte × FetchEnd
  | 0, _ => ([], .enough)
  | n + 1, k =>
    if s.fetchable k then
      match s.loadByte (s.instrAddress + k) with
      | none => ([], .unwritten (s.instrAddress + k))
      | some b => let rest := s.fetchFrom n (k + 1); (b :: rest.1, rest.2)
    else ([], .pastEnd)

/-- The bytes at `pc` an instruction can have. -/
def State.fetchBytes (s : State) : List Byte × FetchEnd := s.fetchFrom longestInstr 0

/-- The attributes of the fetch, which is access 0 of its instruction (R297, R305). -/
def State.fetchAttributes (s : State) : Except (Fin 8) Attributes := s.attributesAt 0 s.instrAddress

/-- Fetch and decode at `pc`. A fetch is a memory access, so a misaligned active region refuses it (R283, R305). -/
def State.fetch (s : State) : Result Instr :=
  match s.fetchAttributes with
  | .error n => .refused (.regionMisaligned n)
  | .ok _ =>
    match decode s.fetchBytes.1, s.fetchBytes.2 with
    | .ok (i, _), _ => .next i
    | .error .truncated, .unwritten a => .fault (.unwrittenMemory a)
    | .error .truncated, _ => .refused .fetchPastEnd
    | .error e, _ => .refused (.encoding e)

/-- Bytes placed where the fetch reads them, as far as it reaches. -/
def State.placeFrom (s : State) (k : Nat) : List Byte → State
  | [] => s
  | b :: bs =>
    if s.fetchable k then (s.storeByte (s.instrAddress + k) b).placeFrom (k + 1) bs else s

/-! ### Taking an exception -/

/-- `raise <Exception>(info)`. The spec gives no delivery: "`raise X` ends the step with `fault(X)` and the state as the
rule left it" (R360, D24). The source describes no return from an exception either (R364), so there is no
operation beside this one that undoes it. -/
def raiseException {α : Type} (x : ExceptionName) (code : Option (BitVec 16)) (pc : BitVec 32) (left : State) : Result α :=
  .fault (.exception x code pc left)

end Sys2Proof.Machine
end

