-- ==== Sys2Proof/Machine/Operands.lean ====
section
/-! DEFINITION. The operand forms of the admitted instructions (R142, R143, R147). Register operands are read by
State.reg8, State.reg16 and State.reg32 of Ops.lean. -/

namespace Sys2Proof.Machine

/-- The port an 8-bit immediate names: `zext_16(ib)` (R143). -/
def immPort (p : BitVec 8) : BitVec 16 := p.setWidth 16

/-- The port DX names, all 16 bits of it (R147, R242). -/
def State.dxPort (s : State) : BitVec 16 := s.reg16 .d

/-- The byte AL holds. -/
def State.al (s : State) : BitVec 8 := s.reg8 .al

/-- `x[AL] <- v`. -/
def State.setAl (s : State) (v : BitVec 8) : State := s.setReg8 .al v

/-- `pc + 2 + sext(rel8)`, "truncated to the width of the program counter in force" (R143). -/
def State.relTarget (s : State) (rel : BitVec 8) : BitVec 32 :=
  match s.env.addrSize with
  | .bits16 => ((s.pc + 2#32 + rel.signExtend 32).extractLsb' 0 16).setWidth 32
  | .bits32 => s.pc + 2#32 + rel.signExtend 32

/-- LOOP's count register: CX with 16-bit addresses, ECX with 32-bit ones (R158, R271). -/
def State.loopCount (s : State) : BitVec 32 :=
  match s.env.addrSize with
  | .bits16 => (s.reg16 .c).setWidth 32
  | .bits32 => s.reg32 .c

/-- The count register one less, modulo 2^16 or 2^32, no flag changed (R271). -/
def State.decLoopCount (s : State) : State :=
  match s.env.addrSize with
  | .bits16 => s.setReg16 .c (s.reg16 .c - 1#16)
  | .bits32 => s.setReg32 .c (s.reg32 .c - 1#32)

/-- The debug address register a number names, 0 to 3. -/
def drAddress : DrNum → Option (Fin 4)
  | .dr0 => some 0
  | .dr1 => some 1
  | .dr2 => some 2
  | .dr3 => some 3
  | .dr4 | .dr5 | .dr6 | .dr7 => none

end Sys2Proof.Machine
end

