-- ==== Sys2Proof/Machine/ConfigAccess.lean ====
section
/-! DEFINITION. Ports 22h and 23h (42_config_access.md) and the four port instructions OUT imm8,AL; IN AL,imm8;
OUT DX,AL; IN AL,DX. -/

namespace Sys2Proof.Machine

/-- Where an armed port 23h access goes (R223, R231). -/
inductive IndexClass where
  | onChip | external | noRegister | undefined
deriving DecidableEq, Repr

/-- `IsRegister(i)` (R231). -/
def isRegister (i : BitVec 8) : Bool :=
  (decide (0xC0 ≤ i.toNat) && decide (i.toNat ≤ 0xE3)) || i == 0xE8#8 || i == 0xE9#8 || i == 0xFE#8 || i == 0xFF#8

/-- `AlwaysOpen(i)` (R231): "accessible regardless of the state of MAPEN" (R226). -/
def alwaysOpen (i : BitVec 8) : Bool :=
  (decide (0xC0 ≤ i.toNat) && decide (i.toNat ≤ 0xCF)) || i == 0xFE#8 || i == 0xFF#8

/-- `Classify(i, mapen)` (R231). -/
def classify (i : BitVec 8) (m : BitVec 4) : IndexClass :=
  if alwaysOpen i then .onChip
  else if m = 0#4 then .external
  else if m = 1#4 then (if isRegister i then .onChip else .noRegister)
  else .undefined

/-- The byte an on-chip write of `v` stores at index `i` (R233): the bits SMI_LOCK covers keep their value outside an
SMI service routine (R236), and SMI_LOCK itself can be set and never cleared (R237). -/
def newConfigByte (cf : ConfigFile) (smm : Bool) (i v : BitVec 8) : BitVec 8 :=
  let locked := if smiLock cf && !smm then lockMask i else 0#8
  let new := (configByte cf i &&& locked) ||| (v &&& ~~~locked)
  if i = 0xC3#8 then new ||| (configByte cf i &&& 1#8) else new

/-- The on-chip write of a byte (R233): DIR0 and DIR1 are unchanged (R234), a 1 in a reserved bit is refused (R12). -/
def configWrite (s : State) (i v : BitVec 8) : Result State :=
  if i = 0xFE#8 ∨ i = 0xFF#8 then .next s
  else if v &&& reservedMask i ≠ 0#8 then .refused (.reservedBitWritten i)
  else .next (s.setCfg (configStore s.cfg i (newConfigByte s.cfg s.env.smm i v)))

/-- `ExtIoWrite8(port, v)`. -/
def State.extWrite (s : State) (port : BitVec 16) (v : BitVec 8) : State := s.emit (.write port v)

/-- `ExtIoRead8(port)`: the platform answers with a free byte (R222, R224, R225). Assumption log 16. -/
def State.extRead (s : State) (port : BitVec 16) : BitVec 8 × State :=
  (Config.freeByte s.draws, (s.emit (.read port (Config.freeByte s.draws))).tick)

/-- A write of a byte to port 23h with a selection pending (R223). -/
def armedWrite (s : State) (v : BitVec 8) : Result State :=
  match classify s.cfgIndex (mapen s.cfg) with
  | .onChip => configWrite s.disarm s.cfgIndex v
  | .external => .next (s.disarm.extWrite 0x23#16 v)
  | .noRegister => .refused (.noRegisterWritten s.cfgIndex)
  | .undefined => .refused (.mapenUndefined (mapen s.cfg))

/-- A read of a byte from port 23h with a selection pending (R223, R230, R232). -/
def armedRead (s : State) : Result (BitVec 8 × State) :=
  match classify s.cfgIndex (mapen s.cfg) with
  | .onChip => .next (configByte s.cfg s.cfgIndex, s.disarm)
  | .external => .next (s.disarm.extRead 0x23#16)
  | .noRegister => .next (Config.freeByte s.draws, s.disarm.tick)
  | .undefined => .refused (.mapenUndefined (mapen s.cfg))

/-- A write of a byte to port 22h (R221). -/
def selectIndex (s : State) (v : BitVec 8) : State :=
  (s.select v).emitIf (Config.port22WriteExternal v) (.write 0x22#16 v)

/-- The premise of every port access, `cpl = 0 or not protected_mode` (R355). -/
def State.ioPermitted (s : State) : Bool := s.env.cpl == 0#2 || !s.env.protectedMode

/-- `IoWrite8(port, v)` (R239). -/
def ioWrite8 (s : State) (port : BitVec 16) (v : BitVec 8) : Result State :=
  if !s.ioPermitted then .refused .ioPermission
  else if port = 0x22#16 then .next (selectIndex s v)
  else if port = 0x23#16 then (if s.cfgArmed then armedWrite s v else .next (s.extWrite port v))
  else .next (s.extWrite port v)

/-- `IoRead8(port)` (R239): port 22h is external, and refused while a selection is pending (R222). -/
def ioRead8 (s : State) (port : BitVec 16) : Result (BitVec 8 × State) :=
  if !s.ioPermitted then .refused .ioPermission
  else if port = 0x22#16 then (if s.cfgArmed then .refused .port22ReadWhileArmed else .next (s.extRead port))
  else if port = 0x23#16 then (if s.cfgArmed then armedRead s else .next (s.extRead port))
  else .next (s.extRead port)

/-- A byte written to a port, then the next instruction. -/
def outByte (s : State) (port : BitVec 16) (len : Nat) : Result State :=
  andThen (ioWrite8 s port s.al) fun t => .next (t.advance len)

/-- A byte read from a port into AL, then the next instruction. -/
def inByte (s : State) (port : BitVec 16) (len : Nat) : Result State :=
  andThen (ioRead8 s port) fun r => .next ((r.2.setAl r.1).advance len)

/-- OUT imm8, AL (R240). -/
def execOutImmAl (p : BitVec 8) (s : State) : Result State := outByte s (immPort p) 2

/-- IN AL, imm8 (R241). -/
def execInAlImm (p : BitVec 8) (s : State) : Result State := inByte s (immPort p) 2

/-- OUT DX, AL (R242). -/
def execOutDxAl (s : State) : Result State := outByte s s.dxPort 1

/-- IN AL, DX (R243). -/
def execInAlDx (s : State) : Result State := inByte s s.dxPort 1

end Sys2Proof.Machine
end

