-- ==== Sys2Proof/Machine/ConfigControl.lean ====
section
/-! DEFINITION. What the configuration control bits do beyond the address regions (43_config_control.md): the gates on
SMI, NMI and suspend, the bits that change only pins or timing, and HLT, LOOP and CPUID. -/

namespace Sys2Proof.Machine

/-! ### Gates on the platform's events -/

/-- The SMI# pin is honoured with USE_SMI = 1 and SMAC = 0 (R251, R252, R366). -/
def State.smiHonoured (s : State) : Bool := useSmi s.cfg && !smac s.cfg

/-- An NMI is recognized outside an SMI service routine, and inside one only with NMI_EN = 1 (R261, R367). -/
def State.nmiRecognized (s : State) : Bool := !s.env.smm || nmiEn s.cfg

/-- The SUSP# pin is enabled with USE_SUSP = 1 (R259). -/
def State.suspHonoured (s : State) : Bool := useSusp s.cfg

/-! ### Bits that change timing or bus cycles only -/

/-- CCR4.IORT: the minimum number of bus clocks between I/O accesses, `none` for "no delay" (R263). -/
def ioRecoveryClocks (cf : ConfigFile) : Option Nat :=
  if iort cf = 7#3 then none else some (2 ^ (iort cf).toNat)

/-- CCR2.SADS: an idle cycle between the sampling of BRDY# and ADS# in back-to-back bus cycles (R255). -/
def idleBeforeAds (cf : ConfigFile) : Bool := sads cf

/-- CCR5.SLOP: LOOP is slowed down; it computes the same (R267). -/
def loopSlowed (cf : ConfigFile) : Bool := slop cf

/-- The address sequence of a burst (R262). -/
inductive BurstOrder where
  | linear | onePlusFour
deriving DecidableEq, Repr

/-- CCR3.LINBRST (R262). -/
def burstOrder (cf : ConfigFile) : BurstOrder := if linbrst cf then .linear else .onePlusFour

/-- CCR4.DTE_EN: the Directory Table Entry cache is enabled (R264); nothing else of it is described. -/
def dteCacheEnabled (cf : ConfigFile) : Bool := dteEn cf

/-! ### Output pins -/

/-- The level of an output pin. -/
inductive PinLevel where
  | asserted | negated | floating
deriving DecidableEq, Repr

/-- SMIACT#: "driven inactive" with USE_SMI = 0, otherwise the indication of an SMI service routine (R251, R366). -/
def State.smiactPin (s : State) : PinLevel :=
  if useSmi s.cfg && s.env.smm then .asserted else .negated

/-- SUSPA#: it "floats" with USE_SUSP = 0; otherwise it acknowledges the suspend mode the SUSP# pin asked for (R60, R259,
R377). Its level in suspend mode by a HLT is open: a constant without a value. Assumption log 44. -/
def State.suspaPin (s : State) : PinLevel :=
  if !useSusp s.cfg then .floating
  else
    match s.activity with
    | .suspended .pin => .asserted
    | .suspended .hlt => if Config.suspaOnHaltSuspend then .asserted else .negated
    | .running | .halted => .negated

/-- ADS# of the second of two "non-pipelined back-to-back bus cycles": asserted when BRDY# is sampled for the first and
`idles` idle cycles have followed, one with SADS = 1 and none with SADS = 0 (R60, R255). -/
def State.adsPin (s : State) (idles : Nat) : PinLevel :=
  if s.env.brdy && idles == (if idleBeforeAds s.cfg then 1 else 0) then .asserted else .negated

/-- LOCK# for a cycle: asserted for every locked cycle under strong locking (R126), and under weak locking only for
page table accesses; for an interrupt acknowledge cycle the level is then open (R127, R253, C9). -/
def lockPin (t : Attributes) (k : BusCycleKind) : PinLevel :=
  match k with
  | .unlocked => .negated
  | .pageTable => .asserted
  | .locked => if t.weakLock then .negated else .asserted
  | .interruptAcknowledge =>
    if t.weakLock && !Config.lockAssertedOnInterruptAcknowledge then .negated else .asserted

/-- LBA# for an access (R132, R296). -/
def lbaPin (t : Attributes) : PinLevel := if t.lbaAsserted then .asserted else .negated

/-! ### HLT, LOOP, CPUID -/

/-- HLT (R270): halted, or suspended with SUSP_HLT = 1; the pc stays at the HLT and the run ends (D33). In protected
mode at a level other than 0 it raises GeneralProtection (R270, R354, G17). Assumption log 21. -/
def execHlt (s : State) : Result State :=
  if s.env.protectedMode && s.env.cpl != 0#2 then raiseException .generalProtection none s.pc s
  else .next (s.setActivity (if suspHlt s.cfg then .suspended .hlt else .halted))

/-- LOOP rel8 (R271): the count register less one, and the branch when that is not 0. -/
def execLoop (rel : BitVec 8) (s : State) : Result State :=
  let t := s.decLoopCount
  if t.loopCount = 0#32 then .next (t.advance 2) else .next (t.setPc (s.relTarget rel))

/-- CPUID (R272): an invalid opcode with CCR4.CPUID = 0; with 1 "CPUID results are in section 6.3, which no source
holds", and the spec refuses (D40). -/
def execCpuid (s : State) : Result State :=
  if cpuidEnabled s.cfg then .refused .cpuidResults else raiseException .invalidOpcode none s.pc s

end Sys2Proof.Machine
end

