-- ==== Sys2Proof/WellFormed.lean ====
section
/-! DEFINITION. Well-formed instructions. Every operand but one is of a type that holds exactly the values its
encoding admits; the one check left is the debug register number, of which six of eight name a register
(R142, R333). -/

namespace Sys2Proof

/-- The debug register numbers that name one of the "Six debug registers (DR0-DR3, DR6 and DR7)" (R35, R333). -/
def DrNum.named : DrNum → Bool
  | .dr0 | .dr1 | .dr2 | .dr3 | .dr6 | .dr7 => true
  | .dr4 | .dr5 => false

/-- An instruction all of whose operands name something the spec gives the machine. -/
def Instr.wellFormed : Instr → Bool
  | .ltr _ => true
  | .str _ => true
  | .movR32Dr _ n => n.named
  | .movDrR32 n _ => n.named
  | .hlt => true
  | .loop _ => true
  | .cpuid => true
  | .int3 => true
  | .outImmAl _ => true
  | .inAlImm _ => true
  | .outDxAl => true
  | .inAlDx => true
  | .movR8Imm _ _ => true
  | .movR8R8 _ _ => true

end Sys2Proof
end

