-- ==== Sys2Proof/Machine/DebugRegs.lean ====
section
/-! DEFINITION. The debug registers (45_debug_registers.md): the fields of DR6 and DR7, the breakpoint procedure of
R332, the two MOV instructions and INT 3. Bit positions are the spec's general-knowledge entry G7. -/

namespace Sys2Proof.Machine

/-! ### Fields -/

/-- The named bits of DR6: B0 to B3 at 0 to 3, BS at 14, BT at 15 (R36). -/
def dr6Mask : BitVec 32 := 0x0000C00F#32
/-- The named bits of DR7: L and G at 0 to 7, GD at 13, R/W and LEN at 16 to 31 (R37). -/
def dr7Mask : BitVec 32 := 0xFFFF20FF#32
/-- DR6.BS (R36). -/
def bsMask : BitVec 32 := 0x00004000#32
/-- DR6.BT (R36). -/
def btMask : BitVec 32 := 0x00008000#32
/-- DR7.GD (R37). -/
def gdMask : BitVec 32 := 0x00002000#32
/-- DR7.L0 to DR7.L3 (R37). -/
def localMask : BitVec 32 := 0x00000055#32

/-- The four breakpoints (R310). -/
def breakpointNumbers : List (Fin 4) := [0, 1, 2, 3]

/-- DR7.Li (R37). -/
def bpLocal (d7 : BitVec 32) (i : Fin 4) : Bool := d7.getLsbD (2 * i.val)
/-- DR7.Gi (R37). -/
def bpGlobal (d7 : BitVec 32) (i : Fin 4) : Bool := d7.getLsbD (2 * i.val + 1)
/-- DR7.GD (R37, R330). -/
def gdSet (d7 : BitVec 32) : Bool := d7.getLsbD 13
/-- DR7.R/Wi (R37). -/
def bpType (d7 : BitVec 32) (i : Fin 4) : BitVec 2 := d7.extractLsb' (16 + 4 * i.val) 2
/-- DR7.LENi (R37). -/
def bpLen (d7 : BitVec 32) (i : Fin 4) : BitVec 2 := d7.extractLsb' (18 + 4 * i.val) 2

/-- `enabled(i)` (R319). -/
def bpEnabled (d7 : BitVec 32) (i : Fin 4) : Bool := bpLocal d7 i || bpGlobal d7 i

/-- `legal(i)` (R332). -/
def bpLegal (d7 : BitVec 32) (i : Fin 4) : Bool :=
  bpType d7 i != 2#2 && bpLen d7 i != 2#2 && (bpType d7 i != 0#2 || bpLen d7 i == 0#2)

/-- Why an enabled breakpoint is refused when it is evaluated (R316, R317, R318, R332). -/
def bpProblem (d7 : BitVec 32) (i : Fin 4) : Option Refusal :=
  if !bpEnabled d7 i then none
  else if bpType d7 i = 2#2 then some (.breakpointTypeNotUsed i)
  else if bpLen d7 i = 2#2 then some (.breakpointLengthNotUsed i)
  else if bpType d7 i = 0#2 ∧ bpLen d7 i ≠ 0#2 then some (.executionBreakpointLength i)
  else none

/-- The length LENi stands for (R38): 1, 2 or 4 bytes; 10b is "Not used" and its breakpoint matches nothing. -/
def lenBytes (l : BitVec 2) : Nat :=
  if l = 0#2 then 1 else if l = 1#2 then 2 else if l = 3#2 then 4 else 0

/-- `base_i`: DRi with its low log2(len) bits cleared (R316, D22). -/
def bpBase (address : BitVec 32) (len : Nat) : Nat := address.toNat - address.toNat % len

/-- Whether `[a, a + w)` and `[b, b + n)` share a byte (R316). -/
def rangesMeet (a w b n : Nat) : Bool := decide (a < b + n) && decide (b < a + w)

/-- Whether an access kind fits R/Wi: 01b writes only, 11b reads or writes (R316, R38). -/
def kindFits (type : BitVec 2) (k : AccessKind) : Bool := type == 3#2 || (type == 1#2 && k == .write)

/-- Whether a data access matches breakpoint i, enabled or not (R316). -/
def bpMatchesAccess (s : State) (i : Fin 4) (a : Access) : Bool :=
  bpLegal s.dr7 i && kindFits (bpType s.dr7 i) a.kind &&
    rangesMeet a.address.toNat a.width.bytes (bpBase s.dr[i] (lenBytes (bpLen s.dr7 i))) (lenBytes (bpLen s.dr7 i))

/-- Whether the current instruction matches execution breakpoint i, enabled or not (R316, R332). -/
def bpMatchesInstr (s : State) (i : Fin 4) : Bool :=
  bpLegal s.dr7 i && bpType s.dr7 i == 0#2 && s.dr[i].toNat == s.instrAddress

/-- `X` of R332. -/
def executionHits (s : State) : List (Fin 4) := breakpointNumbers.filter (bpMatchesInstr s)

/-- `D` of R332. -/
def dataHits (s : State) : List (Fin 4) := breakpointNumbers.filter fun i => s.accesses.any (bpMatchesAccess s i)

/-! ### The debug exception -/

/-- The bits Bi of the breakpoints in a list. -/
def hitBits (hits : List (Fin 4)) : BitVec 32 := hits.foldr (fun i d => (1#32 <<< i.val) ||| d) 0#32

/-- What the processor writes at a debug exception: the cause bits of DR6 are set and none is cleared (R322 to R325),
and "GD bit is cleared whenever a debug exception occurs" (R329). -/
def State.recordDebug (s : State) (hits : List (Fin 4)) (bs bt : Bool) : State :=
  (s.setDr6 (s.dr6 ||| hitBits hits ||| (if bs then bsMask else 0#32) ||| (if bt then btMask else 0#32))).setDr7
    (s.dr7 &&& ~~~gdMask)

/-- `DebugException`: DR6 and DR7 written, then `raise Debug` (R331, R332). -/
def debugException {α : Type} (s : State) (hits : List (Fin 4)) (bs bt : Bool) (pc : BitVec 32) : Result α :=
  raiseException .debug none pc (s.recordDebug hits bs bt)

/-- The check before an instruction (R332): enabled breakpoints must be usable, and an enabled execution breakpoint
is "taken before execution of the instruction that matches" (R328). Otherwise the state the instruction starts
in, with no data access recorded yet. -/
def State.beforeInstruction (s : State) : Result State :=
  match breakpointNumbers.findSome? (bpProblem s.dr7) with
  | some r => .refused r
  | none =>
    if (executionHits s).any (bpEnabled s.dr7) then debugException s (executionHits s) false false s.pc
    else .next s.clearAccesses

/-- The check after an instruction (R332): `stepping` is EFLAGS.TF as it was before it. The pc reported is that of the next
instruction (R326, R328). Assumption log 22. -/
def State.afterInstruction (t : State) (stepping : Bool) : Result State :=
  if stepping || (dataHits t).any (bpEnabled t.dr7) then debugException t (dataHits t) stepping false t.nextPc
  else .next t

/-- The debug effects of a task switch that has been made (R212, R320, R321, R323): every Li is cleared, no Gi is, and
a T bit in the incoming TSS is a debug exception with BT set. The switch itself is refused (R214). -/
def taskSwitchDebugEffects (tBit : Bool) (s : State) : Result State :=
  let t := s.setDr7 (s.dr7 &&& ~~~localMask)
  if tBit then debugException t [] false true t.pc else .next t

/-! ### MOV with a debug register, INT 3 -/

/-- The checks R312 and R313 share, in their order: the number, the privilege level, DR7.GD (R330). -/
def debugMove (s : State) (n : DrNum) (f : Result State) : Result State :=
  if !n.named then .refused (.debugRegisterNumber n)
  else if s.env.cpl ≠ 0#2 then raiseException .generalProtection none s.pc s
  else if gdSet s.dr7 then debugException s [] false false s.pc
  else f

/-- A debug register written: DR6 and DR7 keep their named bits of the value, "other bits of v are dropped" (R312). -/
def State.writeDr (s : State) (n : DrNum) (v : BitVec 32) : State :=
  match n with
  | .dr0 => s.setDr 0 v
  | .dr1 => s.setDr 1 v
  | .dr2 => s.setDr 2 v
  | .dr3 => s.setDr 3 v
  | .dr6 => s.setDr6 (v &&& dr6Mask)
  | .dr7 => s.setDr7 (v &&& dr7Mask)
  | .dr4 | .dr5 => s

/-- A debug register read: DR0 to DR3 as they are; of DR6 and DR7 the named bits, every other bit free at each read
(R313, D20). Assumption log 17. -/
def State.readDr (s : State) (n : DrNum) : BitVec 32 × State :=
  match n with
  | .dr0 => (s.dr[0], s)
  | .dr1 => (s.dr[1], s)
  | .dr2 => (s.dr[2], s)
  | .dr3 => (s.dr[3], s)
  | .dr6 => ((s.dr6 &&& dr6Mask) ||| (Config.freeDword s.draws &&& ~~~dr6Mask), s.tick)
  | .dr7 => ((s.dr7 &&& dr7Mask) ||| (Config.freeDword s.draws &&& ~~~dr7Mask), s.tick)
  | .dr4 | .dr5 => (0#32, s)

/-- MOV DRn, r32 (R312). -/
def execMovDrR32 (n : DrNum) (r : GReg) (s : State) : Result State :=
  debugMove s n (.next ((s.writeDr n (s.reg32 r)).advance 3))

/-- MOV r32, DRn (R313). -/
def execMovR32Dr (r : GReg) (n : DrNum) (s : State) : Result State :=
  debugMove s n (.next (((s.readDr n).2.setReg32 r (s.readDr n).1).advance 3))

/-- INT 3 (R327): the breakpoint exception, "reported with pc of the byte after the INT 3"; DR6 and DR7 are left alone. -/
def execInt3 (s : State) : Result State := raiseException .breakpoint none (s.advance 1).pc s

end Sys2Proof.Machine
end

