-- ==== Sys2Proof/Machine/Moves.lean ====
section
/-! DEFINITION. The two helper moves (R155, R156). -/

namespace Sys2Proof.Machine

/-- MOV r8, imm8 (R155). -/
def execMovR8Imm (r : Reg8) (imm : BitVec 8) (s : State) : Result State := .next ((s.setReg8 r imm).advance 2)

/-- MOV r8, r8 (R156). -/
def execMovR8R8 (d r : Reg8) (s : State) : Result State := .next ((s.setReg8 d (s.reg8 r)).advance 2)

end Sys2Proof.Machine
end

