-- ==== Sys2Proof/Machine/TaskRegister.lean ====
section
/-! DEFINITION. LTR and STR (41_task_register_tss.md rules R190 to R193). -/

namespace Sys2Proof.Machine

/-- The address of the GDT entry a selector has, if it has one: the parameter behind `GdtDescriptor(sel)` (R192). -/
def State.gdtEntry (s : State) (sel : BitVec 16) : Option (BitVec 32) := s.env.gdt.lookup sel

/-- `IsTssDescriptor(desc)` with the kind of its TSS (R192, R194). -/
def State.tssKindOf (s : State) (desc : BitVec 64) : Option TssKind := s.env.tssDescriptors.lookup desc

/-- The kind of the current TSS, from the hidden part of the Task Register (R190, R194). -/
def State.currentTssKind (s : State) : Option TssKind := if s.trLoaded then s.tssKindOf s.trHidden else none

/-- Whether a selector names the GDT: its table indicator, bit 2, is 0 (R192, G12). -/
def namesGdt (sel : BitVec 16) : Bool := !sel.getLsbD 2

/-- LTR r16 (R192): protected mode, then privilege level 0, then a TSS descriptor in the GDT; no task switch, and
memory is only read. -/
def execLtr (r : GReg) (s : State) : Result State :=
  if !s.env.protectedMode then raiseException .invalidOpcode none s.pc s
  else if s.env.cpl ≠ 0#2 then raiseException .generalProtection (some 0#16) s.pc s
  else if !namesGdt (s.reg16 r) then raiseException .generalProtection (some (s.reg16 r)) s.pc s
  else
    match s.gdtEntry (s.reg16 r) with
    | none => raiseException .generalProtection (some (s.reg16 r)) s.pc s
    | some d =>
      andThen (s.readDescriptor d) fun x =>
        if (s.tssKindOf x.1).isSome then .next ((x.2.loadTr (s.reg16 r) x.1).advance 3)
        else raiseException .generalProtection (some (s.reg16 r)) s.pc s

/-- STR r16 (R193): protected mode at every level. Before the first load of the Task Register it stores the selector
State.reset gives it. Assumption log 27. -/
def execStr (r : GReg) (s : State) : Result State :=
  if !s.env.protectedMode then raiseException .invalidOpcode none s.pc s
  else .next ((s.setReg16 r s.trSelector).advance 3)

end Sys2Proof.Machine
end

