-- ==== Sys2Proof/Machine/Dispatch.lean ====
section
/-! DEFINITION. The meaning of every instruction: one arm per row of spec/opcode_table.json. -/

namespace Sys2Proof.Machine

def exec (i : Instr) (s : State) : Host.Outcome State Fault Refusal :=
  match i with
  | .ltr r => Sys2Proof.Machine.execLtr r s
  | .str r => Sys2Proof.Machine.execStr r s
  | .movR32Dr r n => Sys2Proof.Machine.execMovR32Dr r n s
  | .movDrR32 n r => Sys2Proof.Machine.execMovDrR32 n r s
  | .hlt => Sys2Proof.Machine.execHlt s
  | .loop rel => Sys2Proof.Machine.execLoop rel s
  | .cpuid => Sys2Proof.Machine.execCpuid s
  | .int3 => Sys2Proof.Machine.execInt3 s
  | .outImmAl port => Sys2Proof.Machine.execOutImmAl port s
  | .inAlImm port => Sys2Proof.Machine.execInAlImm port s
  | .outDxAl => Sys2Proof.Machine.execOutDxAl s
  | .inAlDx => Sys2Proof.Machine.execInAlDx s
  | .movR8Imm r imm => Sys2Proof.Machine.execMovR8Imm r imm s
  | .movR8R8 d r => Sys2Proof.Machine.execMovR8R8 d r s

end Sys2Proof.Machine
end

