-- ==== Sys2Proof/Machine/Events.lean ====
section
/-! DEFINITION. The platform's events, each a step of its own kind (00_scope.md section 5, R365, R380). -/

namespace Sys2Proof.Machine

/-- The state after the RESET pin (R380 to R384): that of State.reset, with the platform's inputs, its events to come and
the model's own counters kept. Memory holds no readable byte: whether RESET changes it is not said (R384).
Assumption log 10. -/
def State.afterReset (s : State) : State :=
  { State.reset with env := s.env, events := s.events, ioCycles := s.ioCycles, draws := s.draws }

/-- An NMI that is not recognized: held pending or lost, which of the two is free (R261). Assumption log 19. -/
def State.holdNmi (s : State) : State := (s.setNmiPending (s.nmiPending || Config.freeBool s.draws)).tick

/-- One event of the platform, in the state without it. An SMI, an NMI or a hardware interrupt that is enabled ends the
run (R365); one that is not honoured changes nothing. -/
def takeEvent (e : Event) (s : State) : Result State :=
  match e with
  | .quiet => .next s
  | .reset => .next s.afterReset
  | .smi =>
    if !s.smiHonoured then .next s
    else if sm3 s.cfg then .fault (.smi s) else .refused .useSmiWithoutSm3
  | .nmi => if s.nmiRecognized then .fault (.nmi s) else .next s.holdNmi
  | .hardwareInterrupt => .fault (.interrupt s)
  | .suspendRequest => if s.suspHonoured then .next (s.setActivity (.suspended .pin)) else .next s
  | .environment env => .next (s.setEnv env)
  | .taskSwitch => .refused .taskSwitch
  | .gateTransfer => .refused .gateTransfer

end Sys2Proof.Machine
end

