-- ==== Sys2Proof/Machine/Step.lean ====
section
/-! DEFINITION. One step: an event of the platform, or one instruction inside the debug procedure of R332. -/

namespace Sys2Proof.Machine

/-- The instruction at `pc` run, with the debug checks before and after it (R332). -/
def runInstruction (s : State) : Host.Outcome State Fault Refusal :=
  andThen s.beforeInstruction fun s1 =>
    andThen s1.fetch fun i => andThen (exec i s1) fun t => t.afterInstruction s.tf

/-- What happens where no event arrives: an NMI held pending is taken once it is recognized (R261); else, while the run
goes on (R270), the next instruction is executed; `stopped` is the outcome of a CPU that is halted or suspended. -/
def runOn (s : State) (stopped : Host.Outcome State Fault Refusal) : Host.Outcome State Fault Refusal :=
  if s.nmiPending && s.nmiRecognized then .fault (.nmi s)
  else if s.activity = .running then runInstruction s
  else stopped

/-- One step. An event that arrives is taken. At a boundary marked quiet, and after the last event, the run goes on; a
halted or suspended CPU lets a quiet boundary pass, and stops the run when no event is left. Assumption log 30. -/
def step (s : State) : Host.Outcome State Fault Refusal :=
  match s.events with
  | [] => runOn s (.fault (.stopped s.activity))
  | .quiet :: es => runOn (s.setEvents es) (.next (s.setEvents es))
  | e :: es => takeEvent e (s.setEvents es)

/-- The state with an instruction of the opcode table stored where the next fetch reads it. -/
def State.withFetchWord (s : State) (nbits w : Nat) : State := s.placeFrom 0 (tableBytes nbits w)

end Sys2Proof.Machine
end

