-- ==== Sys2Proof/Machine/Gates.lean ====
section
/-! DEFINITION. Gate descriptors (40_gate_descriptors.md): the fields, the decode of R179 and its inverse. A transfer
through a gate is refused (R185). -/

namespace Sys2Proof.Machine

/-- The seven gate types (R176). -/
inductive GateKind where
  | callGate16 | taskGate | interruptGate16 | trapGate16 | callGate32 | interruptGate32 | trapGate32
deriving DecidableEq, Repr

/-- The fields of a gate descriptor (R171, R179). -/
structure Gate where
  offset : BitVec 32
  selector : BitVec 16
  present : Bool
  dpl : BitVec 2
  sBit : Bool
  type : BitVec 4
  unnamed : BitVec 3
  parameters : BitVec 5
deriving DecidableEq, Repr

/-- The fields of the two rows of a descriptor (R171, R179). -/
def gateFields (row0 row4 : BitVec 32) : Gate where
  offset := row4.extractLsb' 16 16 ++ row0.extractLsb' 0 16
  selector := row0.extractLsb' 16 16
  present := row4.getLsbD 15
  dpl := row4.extractLsb' 13 2
  sBit := row4.getLsbD 12
  type := row4.extractLsb' 8 4
  unnamed := row4.extractLsb' 5 3
  parameters := row4.extractLsb' 0 5

/-- The kind a TYPE value stands for; the other nine values are no gate (R176, D28). -/
def gateKindOfType (t : BitVec 4) : Option GateKind :=
  if t = 0x4#4 then some .callGate16
  else if t = 0x5#4 then some .taskGate
  else if t = 0x6#4 then some .interruptGate16
  else if t = 0x7#4 then some .trapGate16
  else if t = 0xC#4 then some .callGate32
  else if t = 0xE#4 then some .interruptGate32
  else if t = 0xF#4 then some .trapGate32
  else none

/-- The TYPE value of a kind (R176). -/
def GateKind.type : GateKind → BitVec 4
  | .callGate16 => 0x4#4
  | .taskGate => 0x5#4
  | .interruptGate16 => 0x6#4
  | .trapGate16 => 0x7#4
  | .callGate32 => 0xC#4
  | .interruptGate32 => 0xE#4
  | .trapGate32 => 0xF#4

/-- The kind of a gate: none with bit 12 set or a TYPE that is not listed; bits 7:5 are ignored (R174, R179, D27). -/
def Gate.kind (g : Gate) : Option GateKind := if g.sBit then none else gateKindOfType g.type

/-- The row at +0 of a descriptor (R171). -/
def Gate.row0 (g : Gate) : BitVec 32 := g.selector ++ g.offset.extractLsb' 0 16

/-- The row at +4 of a descriptor as software writes it: bit 12 and bits 7:5 are 0 (R171, R174, R179). -/
def Gate.row4 (g : Gate) : BitVec 32 :=
  g.offset.extractLsb' 16 16 ++ (BitVec.ofBool g.present ++ g.dpl ++ 0#1 ++ g.type ++ 0#3 ++ g.parameters)

/-- The eight bytes of a descriptor in memory (R171, R106). -/
def Gate.bytes (g : Gate) : List Byte := leBytes 4 g.row0 ++ leBytes 4 g.row4

/-- The gate fields of the descriptor at `d`, from `MemRead(d, 4)` and `MemRead(d + 4, 4)`, and the state with the two
reads recorded (R179: it "reads memory and writes nothing"). Assumption log 8. -/
def State.gateAt (s : State) (d : BitVec 32) : Result (Gate × State) :=
  andThen (s.readDescriptor d) fun x => .next (gateFields (x.1.extractLsb' 0 32) (x.1.extractLsb' 32 32), x.2)

/-- The descriptor tables (R55). -/
inductive DescriptorTable where
  | gdt | ldt | idt
deriving DecidableEq, Repr

/-- Where each kind may live: task gates anywhere, trap and interrupt gates only in the IDT, call gates in the GDT or an
LDT (R180). -/
def GateKind.mayLiveIn (k : GateKind) (t : DescriptorTable) : Bool :=
  match k with
  | .taskGate => true
  | .interruptGate16 | .trapGate16 | .interruptGate32 | .trapGate32 => t == .idt
  | .callGate16 | .callGate32 => t != .idt

/-- The offset a kind uses as its entry point: none for a task gate (R181), OFFSET[15:0] for a 16-bit call gate (R184),
OFFSET for the others (R182, R183). -/
def Gate.entryOffset (g : Gate) : Option (BitVec 32) :=
  match g.kind with
  | none => none
  | some .taskGate => none
  | some .callGate16 => some (g.offset &&& 0x0000FFFF#32)
  | some _ => some g.offset

/-- The bytes of parameters a call gate copies: 4 each for a 32-bit one, PARAM_UNIT_16 each for a 16-bit one; the field
has no meaning in the other kinds (R178, C7). -/
def Gate.parameterBytes (g : Gate) : Option Nat :=
  match g.kind with
  | some .callGate32 => some (4 * g.parameters.toNat)
  | some .callGate16 => some ((if Config.paramUnit16IsDword then 4 else 2) * g.parameters.toNat)
  | _ => none

end Sys2Proof.Machine
end

