-- ==== Sys2Proof/Machine/Tss.lean ====
section
/-! DEFINITION. The two Task State Segment layouts (41_task_register_tss.md R194 to R207) as tables of places, and
reading and building them. The task switch itself is refused (R214). -/

namespace Sys2Proof.Machine

/-- The fields of the 32-bit TSS (R200). -/
inductive Tss32Field where
  | backLink | esp0 | ss0 | esp1 | ss1 | esp2 | ss2 | cr3 | eip | eflags
  | eax | ecx | edx | ebx | esp | ebp | esi | edi
  | es | cs | ss | ds | fs | gs | ldt | tBit | ioMapBase
deriving DecidableEq, Repr

/-- The byte offset of the row a field stands in (R200). -/
def Tss32Field.offset : Tss32Field → Nat
  | .backLink => 0x00 | .esp0 => 0x04 | .ss0 => 0x08 | .esp1 => 0x0C | .ss1 => 0x10 | .esp2 => 0x14 | .ss2 => 0x18
  | .cr3 => 0x1C | .eip => 0x20 | .eflags => 0x24 | .eax => 0x28 | .ecx => 0x2C | .edx => 0x30 | .ebx => 0x34
  | .esp => 0x38 | .ebp => 0x3C | .esi => 0x40 | .edi => 0x44 | .es => 0x48 | .cs => 0x4C | .ss => 0x50
  | .ds => 0x54 | .fs => 0x58 | .gs => 0x5C | .ldt => 0x60 | .tBit => 0x64 | .ioMapBase => 0x64

/-- The lowest bit of a field in its row: the I/O map base stands in bits 31:16, every other field at bit 0 (R200, R202). -/
def Tss32Field.lowBit : Tss32Field → Nat
  | .ioMapBase => 16
  | _ => 0

/-- How many bits a field has (R200, R202). -/
def Tss32Field.width : Tss32Field → Nat
  | .esp0 | .esp1 | .esp2 | .cr3 | .eip | .eflags | .eax | .ecx | .edx | .ebx | .esp | .ebp | .esi | .edi => 32
  | .tBit => 1
  | _ => 16

/-- The size of the 32-bit TSS: 26 rows (R200). -/
def tss32Size : Nat := 0x68

/-- The bits a field's value has, counted from bit 0. -/
def Tss32Field.mask (f : Tss32Field) : BitVec 32 := BitVec.ofNat 32 (2 ^ f.width - 1)

/-- The value of a field in its row; the reserved half of a row is ignored (R201). -/
def Tss32Field.get (f : Tss32Field) (row : BitVec 32) : BitVec 32 := (row >>> f.lowBit) &&& f.mask

/-- The fields of the 32-bit TSS, from its base up (R200). -/
def tss32Fields : List Tss32Field :=
  [.backLink, .esp0, .ss0, .esp1, .ss1, .esp2, .ss2, .cr3, .eip, .eflags, .eax, .ecx, .edx, .ebx, .esp, .ebp,
    .esi, .edi, .es, .cs, .ss, .ds, .fs, .gs, .ldt, .tBit, .ioMapBase]

/-- The fields of the row at an offset, as a row: reserved bits are written 0 (R201). -/
def tss32Row (v : Tss32Field → BitVec 32) (offset : Nat) : BitVec 32 :=
  tss32Fields.foldr (fun f row => if f.offset = offset then ((v f &&& f.mask) <<< f.lowBit) ||| row else row) 0#32

/-- The bytes of a 32-bit TSS with the given fields, from its base up (R200, R106). -/
def tss32Bytes (v : Tss32Field → BitVec 32) : List Byte :=
  (List.range 26).flatMap fun k => leBytes 4 (tss32Row v (4 * k))

/-- A field of the 32-bit TSS at a base, read with its row (R200, R201), and the state with the read recorded. -/
def State.tss32Field (s : State) (base : BitVec 32) (f : Tss32Field) : Result (BitVec 32 × State) :=
  andThen (s.readRow base f.offset .dword) fun x => .next (f.get x.1, x.2)

/-- The stack pointer and stack segment fields for privilege levels 0, 1 and 2; there is no pair for level 3 (R204). -/
def tss32Stack : BitVec 2 → Option (Tss32Field × Tss32Field)
  | 0#2 => some (.esp0, .ss0)
  | 1#2 => some (.esp1, .ss1)
  | 2#2 => some (.esp2, .ss2)
  | 3#2 => none

/-- The fields of the 16-bit TSS (R206); each is one row of 16 bits. -/
inductive Tss16Field where
  | backLink | sp0 | ss0 | sp1 | ss1 | sp2 | ss2 | ip | flags
  | ax | cx | dx | bx | sp | bp | si | di | es | cs | ss | ds | ldt
deriving DecidableEq, Repr

/-- The byte offset of a field of the 16-bit TSS; BP is at +1Ch (R206, C3). -/
def Tss16Field.offset : Tss16Field → Nat
  | .backLink => 0x00 | .sp0 => 0x02 | .ss0 => 0x04 | .sp1 => 0x06 | .ss1 => 0x08 | .sp2 => 0x0A | .ss2 => 0x0C
  | .ip => 0x0E | .flags => 0x10 | .ax => 0x12 | .cx => 0x14 | .dx => 0x16 | .bx => 0x18 | .sp => 0x1A | .bp => 0x1C
  | .si => 0x1E | .di => 0x20 | .es => 0x22 | .cs => 0x24 | .ss => 0x26 | .ds => 0x28 | .ldt => 0x2A

/-- The size of the 16-bit TSS: 22 rows (R206). -/
def tss16Size : Nat := 0x2C

/-- The fields of the 16-bit TSS from its base up (R206). -/
def tss16Fields : List Tss16Field :=
  [.backLink, .sp0, .ss0, .sp1, .ss1, .sp2, .ss2, .ip, .flags, .ax, .cx, .dx, .bx, .sp, .bp, .si, .di, .es, .cs, .ss,
    .ds, .ldt]

/-- The bytes of a 16-bit TSS with the given fields, from its base up (R206, R106). -/
def tss16Bytes (v : Tss16Field → BitVec 16) : List Byte :=
  tss16Fields.flatMap fun f => leBytes 2 ((v f).setWidth 32)

/-- A field of the 16-bit TSS at a base (R206), and the state with the read recorded. -/
def State.tss16Field (s : State) (base : BitVec 32) (f : Tss16Field) : Result (BitVec 16 × State) :=
  andThen (s.readRow base f.offset .word) fun x => .next (x.1.setWidth 16, x.2)

/-- The stack pointer and stack segment fields of the 16-bit TSS for levels 0, 1 and 2 (R204, R206). -/
def tss16Stack : BitVec 2 → Option (Tss16Field × Tss16Field)
  | 0#2 => some (.sp0, .ss0)
  | 1#2 => some (.sp1, .ss1)
  | 2#2 => some (.sp2, .ss2)
  | 3#2 => none

end Sys2Proof.Machine
end

