-- ==== Sys2Proof/Safety.lean ====
section
/-! DEFINITION. What claims are stated in: reading one byte of memory, the machine's invariant, safe runs, and the parts
of State that a frame names. -/

namespace Sys2Proof.Machine

/-- The configuration registers hold no reserved bit: "in every state a model reaches, a reserved bit reads 0" (R12). -/
def configClean (cf : ConfigFile) : Prop := ∀ i : BitVec 8, (configPlace i).isSome → configByte cf i &&& reservedMask i = 0#8

/-- The invariant of the machine: both byte stores are canonical, the bits of DR6 and DR7 the spec does not name are
no state (R36, R37, D20), and no reserved bit of a configuration register is set (R12). -/
structure Inv (s : State) : Prop where
  memory : Memory.wf s.mem = true
  systemMemory : Memory.wf s.smmMem = true
  debugStatus : s.dr6 &&& ~~~dr6Mask = 0#32
  debugControl : s.dr7 &&& ~~~dr7Mask = 0#32
  config : configClean s.cfg

/-- A step that goes on: neither a fault nor a refusal. -/
def State.stepsSafely (s : State) : Prop := ∃ t, step s = .next t

/-- `k` steps that all go on. -/
def runsSafely : Nat → State → Prop
  | 0, _ => True
  | k + 1, s => ∃ t, step s = .next t ∧ runsSafely k t

/-- Every byte of both stores reads as before: what a form that stores nothing leaves of memory. -/
def sameMemory (s t : State) : Prop :=
  ∀ a : Nat, Memory.read t.mem a = Memory.read s.mem a ∧ Memory.read t.smmMem a = Memory.read s.smmMem a

/-- The segment registers, EFLAGS, CR0 and CR3 are as before: no admitted instruction writes one. -/
def sameSystem (s t : State) : Prop := t.seg = s.seg ∧ t.eflags = s.eflags ∧ t.cr0 = s.cr0 ∧ t.cr3 = s.cr3

/-- The Task Register, visible and hidden, is as before. -/
def sameTaskRegister (s t : State) : Prop :=
  t.trSelector = s.trSelector ∧ t.trHidden = s.trHidden ∧ t.trLoaded = s.trLoaded

/-- The debug registers are as before. -/
def sameDebug (s t : State) : Prop := t.dr = s.dr ∧ t.dr6 = s.dr6 ∧ t.dr7 = s.dr7

/-- The configuration registers are as before. -/
def sameConfig (s t : State) : Prop := t.cfg = s.cfg

/-- The port 22h selection is as before. -/
def sameSelection (s t : State) : Prop := t.cfgIndex = s.cfgIndex ∧ t.cfgArmed = s.cfgArmed

/-- What belongs to the platform and the run is as before: its inputs, its events, a pending NMI, and whether the run
goes on. -/
def samePlatform (s t : State) : Prop :=
  t.env = s.env ∧ t.events = s.events ∧ t.nmiPending = s.nmiPending ∧ t.activity = s.activity

/-- No external I/O cycle was made. -/
def noIoCycle (s t : State) : Prop := t.ioCycles = s.ioCycles

/-- No data access was recorded. -/
def noAccess (s t : State) : Prop := t.accesses = s.accesses

/-- Everything but the general registers, the program counter, the selection, the configuration registers, the I/O
cycles and the count of free values is as before: the frame of a port instruction. -/
structure PortFrame (s t : State) : Prop where
  memory : sameMemory s t
  system : sameSystem s t
  taskRegister : sameTaskRegister s t
  debug : sameDebug s t
  platform : samePlatform s t
  access : noAccess s t

/-- Everything but the general registers, the program counter and the count of free values is as before: the frame of an
instruction that works on registers. -/
structure RegisterFrame (s t : State) : Prop extends PortFrame s t where
  config : sameConfig s t
  selection : sameSelection s t
  io : noIoCycle s t

/-- Every general register other than `r` is as before. -/
def otherRegisters (r : GReg) (s t : State) : Prop := ∀ q : GReg, q ≠ r → t.reg32 q = s.reg32 q

/-- Of the general registers only the byte `r` may differ. -/
def otherBytes (r : Reg8) (s t : State) : Prop :=
  otherRegisters (Reg8.parent r) s t ∧ (∀ q : Reg8, q ≠ r → t.reg8 q = s.reg8 q) ∧
    (t.reg32 (Reg8.parent r)).extractLsb' 16 16 = (s.reg32 (Reg8.parent r)).extractLsb' 16 16

/-- Every general register is as before. -/
def sameRegisters (s t : State) : Prop := ∀ q : GReg, t.reg32 q = s.reg32 q

/-- The program counter went past an instruction of `n` bytes, wherever that stays in its range (R52). -/
def pcAdvanced (n : Nat) (s t : State) : Prop := s.pc.toNat + n < s.pcLimit → t.pc = s.pc + BitVec.ofNat 32 n

/-- `i` writes the byte in AL to `port` and has `n` bytes: OUT imm8, AL and OUT DX, AL (R240, R242). -/
def writesPort (i : Instr) (s : State) (port : BitVec 16) (n : Nat) : Prop :=
  (∃ p : BitVec 8, i = .outImmAl p ∧ port = p.setWidth 16 ∧ n = 2) ∨ (i = .outDxAl ∧ port = s.reg16 .d ∧ n = 1)

/-- `i` reads a byte of `port` into AL and has `n` bytes: IN AL, imm8 and IN AL, DX (R241, R243). -/
def readsPort (i : Instr) (s : State) (port : BitVec 16) (n : Nat) : Prop :=
  (∃ p : BitVec 8, i = .inAlImm p ∧ port = p.setWidth 16 ∧ n = 2) ∨ (i = .inAlDx ∧ port = s.reg16 .d ∧ n = 1)

/-- The premise of a port access (R355). -/
def portAllowed (s : State) : Prop := s.env.cpl = 0#2 ∨ s.env.protectedMode = false

/-- No active region is misaligned, so the attribute resolution answers (R283). -/
def regionsAligned (cf : ConfigFile) : Prop := ∀ n : Fin 8, regionUnaligned cf n = false

/-- The next step runs an instruction, in the state `s.passQuiet`: no event arrives, no NMI is pending and the run goes on. -/
def readyToRun (s : State) : Prop :=
  (s.events = [] ∨ s.events.head? = some .quiet) ∧ s.nmiPending = false ∧ s.activity = .running

/-- Breakpoint i is enabled: its L or its G bit of DR7 is set (R319). -/
def breakpointOn (d7 : BitVec 32) (i : Fin 4) : Prop :=
  d7.getLsbD (2 * i.val) = true ∨ d7.getLsbD (2 * i.val + 1) = true

/-- Breakpoint i cannot be used: R/W or LEN is 10b, "Not used", or it is an execution breakpoint longer than a byte
(R316, R317, R318). -/
def breakpointUnusable (d7 : BitVec 32) (i : Fin 4) : Prop :=
  d7.extractLsb' (16 + 4 * i.val) 2 = 2#2 ∨ d7.extractLsb' (18 + 4 * i.val) 2 = 2#2 ∨
    (d7.extractLsb' (16 + 4 * i.val) 2 = 0#2 ∧ d7.extractLsb' (18 + 4 * i.val) 2 ≠ 0#2)

/-- A data access meets breakpoint i (R316): R/W is 11b, or 01b for a write, and the bytes of the access share one with
the breakpoint's, which start at its address rounded down to its length (D22) and are one, two or four by LEN. -/
def accessMeetsBreakpoint (t : State) (i : Fin 4) (a : Access) : Prop :=
  (t.dr7.extractLsb' (16 + 4 * i.val) 2 = 3#2 ∨ (t.dr7.extractLsb' (16 + 4 * i.val) 2 = 1#2 ∧ a.kind = .write)) ∧
    ∃ n : Nat, (t.dr7.extractLsb' (18 + 4 * i.val) 2, n) ∈ [(0#2, 1), (1#2, 2), (3#2, 4)] ∧
      a.address.toNat < t.dr[i].toNat / n * n + n ∧ t.dr[i].toNat / n * n < a.address.toNat + a.width.bytes

/-- The instruction at `pc` meets breakpoint i (R316): R/W and LEN are 00b and its linear address is the breakpoint's. -/
def instrMeetsBreakpoint (s : State) (i : Fin 4) : Prop :=
  s.dr7.extractLsb' (16 + 4 * i.val) 2 = 0#2 ∧ s.dr7.extractLsb' (18 + 4 * i.val) 2 = 0#2 ∧
    s.dr[i].toNat = s.env.csBase.toNat + s.pc.toNat

/-- Two states that differ at most in DR6 and DR7: what a debug exception leaves of the rest. -/
def sameButDebugStatus (s t : State) : Prop := t = { s with dr6 := t.dr6, dr7 := t.dr7 }

end Sys2Proof.Machine
end

