-- ==== Sys2Proof/Certificates/Slice0/Obligations.lean ====
section
/-! DEFINITION. The statements about the model, for the provers. Each docstring names the rule of spec/ it rests on. -/

open Sys2Proof
open Sys2Proof.Machine

/-! ### Decoding -/

/-- Decoding the encoding of any instruction, with any bytes after it, gives the instruction back and those bytes
(R141 to R147, R155, R156). It covers the ill-formed debug register numbers 4 and 5 as well.
The encodings are the spec's general knowledge (log 1). -/
def Obligations.DecodeAfterEncode : Prop :=
  ∀ (i : Instr) (rest : List Byte), decode (encode i ++ rest) = .ok (i, rest)

/-- Bytes that decode begin with the encoding of what they decode to: no byte sequence has a second reading and no
bit of an instruction is ignored (R141 to R147, R155, R156).
The encodings are the spec's general knowledge (log 1). -/
def Obligations.DecodedBytesAreTheEncoding : Prop :=
  ∀ (bs rest : List Byte) (i : Instr), decode bs = .ok (i, rest) → bs = encode i ++ rest

/-- Words of the decoding vectors, at least one for each instruction of the table: those of 95_test_vectors.md section
2.7, and CC, E2 FE, F4 and 0F A2 of its sections 2.5 and 2.6, with the encodings of 30_encoding.md section 4.
The encodings are the spec's general knowledge (log 1). -/
def Obligations.DecodeReadsTheSpecWords : Prop :=
  decode [0xB0#8, 0xC3#8] = .ok (.movR8Imm .al 0xC3#8, []) ∧ decode [0xB7#8, 0x01#8] = .ok (.movR8Imm .bh 0x01#8, []) ∧
  decode [0x88#8, 0xC3#8] = .ok (.movR8R8 .bl .al, []) ∧ decode [0xE6#8, 0x22#8] = .ok (.outImmAl 0x22#8, []) ∧
  decode [0xE4#8, 0x23#8] = .ok (.inAlImm 0x23#8, []) ∧ decode [0xEE#8] = .ok (.outDxAl, []) ∧
  decode [0xEC#8] = .ok (.inAlDx, []) ∧ decode [0x0F#8, 0x00#8, 0xD8#8] = .ok (.ltr .a, []) ∧
  decode [0x0F#8, 0x00#8, 0xCB#8] = .ok (.str .b, []) ∧ decode [0x0F#8, 0x23#8, 0xF8#8] = .ok (.movDrR32 .dr7 .a, []) ∧
  decode [0x0F#8, 0x21#8, 0xF3#8] = .ok (.movR32Dr .b .dr6, []) ∧ decode [0xE2#8, 0xFE#8] = .ok (.loop 0xFE#8, []) ∧
  decode [0xF4#8] = .ok (.hlt, []) ∧ decode [0x0F#8, 0xA2#8] = .ok (.cpuid, []) ∧ decode [0xCC#8] = .ok (.int3, [])

/-- The forms the hardware has and the spec refuses are refused, with any operand byte: a ModRM byte whose `mod` is not
11b (R142, R144, R145), the word and doubleword port forms (R147), a test register (R343), a prefix (R141).
That they are refused is the spec's reading (log 1). -/
def Obligations.UnadmittedFormsAreRejected : Prop :=
  (∀ (m : Byte) (rest : List Byte), modField m ≠ 3#2 →
    decode (0x0F#8 :: 0x21#8 :: m :: rest) = .error .modNotRegister ∧
    decode (0x0F#8 :: 0x23#8 :: m :: rest) = .error .modNotRegister ∧
    decode (0x88#8 :: m :: rest) = .error .modNotRegister ∧
    (regField m = 1#3 ∨ regField m = 3#3 → decode (0x0F#8 :: 0x00#8 :: m :: rest) = .error .modNotRegister)) ∧
  (∀ (m : Byte) (rest : List Byte), regField m ≠ 1#3 → regField m ≠ 3#3 →
    decode (0x0F#8 :: 0x00#8 :: m :: rest) = .error .outsideSpec) ∧
  (∀ rest : List Byte,
    decode (0xE5#8 :: rest) = .error .widePortAccess ∧ decode (0xE7#8 :: rest) = .error .widePortAccess ∧
    decode (0xED#8 :: rest) = .error .widePortAccess ∧ decode (0xEF#8 :: rest) = .error .widePortAccess ∧
    decode (0x0F#8 :: 0x24#8 :: rest) = .error .testRegister ∧ decode (0x0F#8 :: 0x26#8 :: rest) = .error .testRegister ∧
    decode (0x66#8 :: rest) = .error .prefixByte ∧ decode (0x67#8 :: rest) = .error .prefixByte ∧
    decode (0xF0#8 :: rest) = .error .prefixByte ∧ decode (0x90#8 :: rest) = .error .outsideSpec)

/-! ### Steps -/

/-- A step that is ready to run, with no debug exception before the instruction, runs exactly the instruction the bytes
at `pc` decode to, and puts around it the emptied list of data accesses and the check after it (R332). `v` is the state
past the boundary: `s`, or `s` with the quiet mark at the head of its events used up.
The order of the checks and the quiet boundary are the model's (log 30). -/
def Obligations.StepRunsTheDecodedInstruction : Prop :=
  ∀ (s v : State) (i : Instr) (rest : List Byte), readyToRun s → v = s.passQuiet →
    v.beforeInstruction = .next v.clearAccesses → regionsAligned s.cfg → decode v.fetchBytes.1 = .ok (i, rest) →
    step s = andThen (exec i v.clearAccesses) fun t => t.afterInstruction s.tf

/-- "A model that never sets TF and leaves DR7 unwritten can omit the procedure" (R332): with TF = 0 and no breakpoint
enabled in DR7, a step is the instruction's meaning alone, whatever it answers, in the state past the boundary.
The premise on the regions is the spec's decision D14 (log 8), the quiet boundary the model's (log 30). -/
def Obligations.StepWithoutBreakpointsIsExec : Prop :=
  ∀ (s v : State) (i : Instr) (rest : List Byte), readyToRun s → v = s.passQuiet → s.tf = false →
    s.dr7 &&& 0x000000FF#32 = 0#32 → regionsAligned s.cfg → decode v.fetchBytes.1 = .ok (i, rest) →
    step s = exec i v.clearAccesses

/-- Bytes at `pc` that are no admitted instruction are refused by name (R141), and nothing is executed.
The premise on the regions is the spec's decision D14 (log 8). -/
def Obligations.StepRefusesOtherBytes : Prop :=
  ∀ (s v : State) (e : DecodeError), readyToRun s → v = s.passQuiet → v.beforeInstruction = .next v.clearAccesses →
    regionsAligned s.cfg → decode v.fetchBytes.1 = .error e → e ≠ .truncated → step s = .refused (.encoding e)

/-! ### Reset -/

/-- The configuration registers after reset, at State.reset and after the RESET pin (R11). -/
def Obligations.ConfigurationAfterReset : Prop :=
  ∀ s : State, (s = State.reset ∨ ∃ (u : State) (es : List Event), u.events = .reset :: es ∧ step u = .next s) →
    (∀ i : BitVec 8, 0xC0 ≤ i.toNat → i.toNat ≤ 0xE3 → configByte s.cfg i = 0x00#8) ∧
    configByte s.cfg 0xE8#8 = 0x05#8 ∧ configByte s.cfg 0xE9#8 = 0x00#8 ∧
    configByte s.cfg 0xFE#8 = Config.devid ∧ configByte s.cfg 0xFF#8 = Config.sid ++ Config.rid

/-- The RESET pin always answers a next state in which no selection is pending (R382), whatever the state was, and the
platform's inputs are as they were (R383: they are taken from the caller).
The latch after RESET is the spec's decision D26; that events and inputs survive is log 10. -/
def Obligations.ResetPinLeavesNoSelection : Prop :=
  ∀ (u : State) (es : List Event), u.events = .reset :: es →
    ∃ s, step u = .next s ∧ s.cfgArmed = false ∧ s.env = u.env ∧ s.events = es

/-! ### Invariants and whole-machine rules -/

/-- The invariant of the machine holds at reset. -/
def Obligations.ResetMeetsTheInvariant : Prop := Inv State.reset

/-- Every step keeps the invariant: the byte stores stay canonical, DR6 and DR7 keep only their named bits (R36, R37) and
no reserved bit of a configuration register is ever set (R12).
That a write of 1 to a reserved bit is refused and that the other bits of DR6 and DR7 are no state are the spec's
decisions D10 and D20 (logs 17 and 35). -/
def Obligations.StepKeepsTheInvariant : Prop := ∀ s t : State, Inv s → step s = .next t → Inv t

/-- SMI_LOCK is one-way (R237): a write to CCR3 sets it or leaves it, a step never clears it unless the step is the RESET
pin, and that one does. -/
def Obligations.SmiLockIsClearedByResetOnly : Prop :=
  (∀ (s t : State) (v : BitVec 8), configWrite s 0xC3#8 v = .next t →
    (configByte t.cfg 0xC3#8).getLsbD 0 = ((configByte s.cfg 0xC3#8).getLsbD 0 || v.getLsbD 0)) ∧
  (∀ s t : State, smiLock s.cfg = true → s.events.head? ≠ some .reset → step s = .next t → smiLock t.cfg = true) ∧
  (∀ s t : State, s.events.head? = some .reset → step s = .next t → smiLock t.cfg = false)

/-- With SMI_LOCK = 1 and outside an SMI service routine, no step but RESET changes USE_SMI, SMAC, SM3, NMI_EN or ARR3
(R235).
That a barred write is dropped in silence is the spec's decision D12 (log 35). -/
def Obligations.LockedBitsChangeOnlyInSmm : Prop :=
  ∀ s t : State, smiLock s.cfg = true → s.env.smm = false → s.events.head? ≠ some .reset → step s = .next t →
    configByte t.cfg 0xC1#8 &&& 0x86#8 = configByte s.cfg 0xC1#8 &&& 0x86#8 ∧
    configByte t.cfg 0xC3#8 &&& 0x02#8 = configByte s.cfg 0xC3#8 &&& 0x02#8 ∧
    configByte t.cfg 0xCD#8 = configByte s.cfg 0xCD#8 ∧ configByte t.cfg 0xCE#8 = configByte s.cfg 0xCE#8 ∧
    configByte t.cfg 0xCF#8 = configByte s.cfg 0xCF#8

/-- The mode, the privilege level, `smm` and the other inputs are changed by the platform only: no instruction and no
other event changes one (R366, R373).
That `smm`, the mode and the level are inputs is the spec's decision D13 (log 38). -/
def Obligations.OnlyThePlatformChangesTheMode : Prop :=
  ∀ s t : State, (∀ e, s.events.head? ≠ some (.environment e)) → step s = .next t → t.env = s.env

/-- Only LTR changes the Task Register (R191, R192). -/
def Obligations.OnlyLtrChangesTheTaskRegister : Prop :=
  ∀ (i : Instr) (s t : State), (∀ r, i ≠ .ltr r) → exec i s = .next t → sameTaskRegister s t

/-- No admitted instruction stores to memory, and none writes a segment register, EFLAGS, CR0 or CR3: every byte of main
and of system management memory reads as before.
It is read off the rules of the fourteen instructions, none of which names one of these as written; that LTR leaves the
busy mark of the TSS descriptor in memory alone is a choice, the spec's decision D35 (log 40). -/
def Obligations.InstructionsLeaveMemoryAndSystemRegisters : Prop :=
  ∀ (i : Instr) (s t : State), exec i s = .next t → sameMemory s t ∧ sameSystem s t

/-- Only MOV DRn, r32 changes a debug register: "No other instruction reads or writes them" (R311), reading DR6 does not
clear it (R313), and a MOV to one leaves the others, of DR0 to DR3 the other three. -/
def Obligations.OnlyMovChangesTheDebugRegisters : Prop :=
  (∀ (i : Instr) (s t : State), (∀ n r, i ≠ .movDrR32 n r) → exec i s = .next t → sameDebug s t) ∧
  (∀ (n : DrNum) (r : GReg) (s t : State), exec (.movDrR32 n r) s = .next t →
    (n ≠ .dr6 → t.dr6 = s.dr6) ∧ (n ≠ .dr7 → t.dr7 = s.dr7) ∧ 
      ∀ i : Fin 4, drAddress n ≠ some i → t.dr[i] = s.dr[i])

/-- Only a write to port 23h changes a configuration register, and only the one selected at port 22h (R220, R223).
That the first access takes the selection, wherever it goes, is the spec's decision D4. -/
def Obligations.OnlyPort23WritesChangeTheConfiguration : Prop :=
  ∀ (i : Instr) (s t : State), exec i s = .next t → t.cfg ≠ s.cfg →
    (∃ n, writesPort i s 0x23#16 n) ∧ s.cfgArmed = true ∧
      ∀ j : BitVec 8, j ≠ s.cfgIndex → configByte t.cfg j = configByte s.cfg j

/-! ### The two moves -/

/-- MOV r8, imm8 (R155), for every register and immediate.
The whole rule is the spec's general knowledge; the pc clause leaves the end of its range free (log 18). -/
def Obligations.MovR8ImmWritesOneByte : Prop :=
  ∀ (r : Reg8) (imm : BitVec 8) (s : State),
    encode (.movR8Imm r imm) = [0xB0#8 + r.bits.setWidth 8, imm] ∧
    ∃ t, exec (.movR8Imm r imm) s = .next t ∧ t.reg8 r = imm ∧ otherBytes r s t ∧ RegisterFrame s t ∧ pcAdvanced 2 s t

/-- MOV r8, r8 (R156), for every pair of registers, equal ones among them.
The whole rule is the spec's general knowledge; the pc clause leaves the end of its range free (log 18). -/
def Obligations.MovR8R8CopiesOneByte : Prop :=
  ∀ (d r : Reg8) (s : State),
    encode (.movR8R8 d r) = [0x88#8, 3#2 ++ r.bits ++ d.bits] ∧
    ∃ t, exec (.movR8R8 d r) s = .next t ∧ t.reg8 d = s.reg8 r ∧ otherBytes d s t ∧ RegisterFrame s t ∧
      pcAdvanced 2 s t ∧ (d = r → sameRegisters s t)

/-! ### The Task Register -/

/-- LTR completes in protected mode at level 0 when its selector names a TSS descriptor in the GDT whose eight bytes
memory holds (R191, R192): both parts of the Task Register are loaded, memory is only read, no register changes.
A descriptor at an address that is not a multiple of 4 is refused (D2) and is no case of this statement. That the
descriptor is read as two dwords is log 8, that its place and kind are inputs log 32, that its busy mark in memory is
left alone the spec's decision D35 (log 40), a choice. -/
def Obligations.LtrLoadsTheTaskRegister : Prop :=
  ∀ (r : GReg) (s : State) (d : BitVec 32) (lo hi : List Byte),
    s.env.protectedMode = true → s.env.cpl = 0#2 → (s.reg16 r).getLsbD 2 = false →
    s.gdtEntry (s.reg16 r) = some d → d.toNat % 4 = 0 → d.toNat + 8 ≤ 2 ^ 32 → regionsAligned s.cfg →
    s.loadBytes d.toNat 4 = .ok lo → s.loadBytes (d.toNat + 4) 4 = .ok hi →
    (s.tssKindOf (leValue hi ++ leValue lo)).isSome = true →
    ∃ t, exec (.ltr r) s = .next t ∧ t.trSelector = s.reg16 r ∧ t.trHidden = leValue hi ++ leValue lo ∧
      t.trLoaded = true ∧ sameRegisters s t ∧ sameMemory s t ∧ sameSystem s t ∧ sameDebug s t ∧ sameConfig s t ∧
      sameSelection s t ∧ samePlatform s t ∧ noIoCycle s t ∧ pcAdvanced 3 s t ∧
      t.accesses.map (fun a => (a.address, a.width, a.kind)) =
        (d + 4#32, .dword, .read) :: (d, .dword, .read) :: s.accesses.map (fun a => (a.address, a.width, a.kind))

/-- Where LTR and STR raise an exception (R192, R193): outside protected mode an invalid opcode, whatever the level (the
mode is checked first, D41); LTR at another level, with a selector that names the LDT or has no GDT entry, or with a
descriptor that is not a TSS descriptor, a general protection exception. Nothing is written.
Which exception is raised is the spec's decision D25. -/
def Obligations.TaskRegisterInstructionsTrap : Prop :=
  ∀ (r : GReg) (s : State),
    (s.env.protectedMode = false →
      exec (.ltr r) s = .fault (.exception .invalidOpcode none s.pc s) ∧
      exec (.str r) s = .fault (.exception .invalidOpcode none s.pc s)) ∧
    (s.env.protectedMode = true → s.env.cpl ≠ 0#2 →
      exec (.ltr r) s = .fault (.exception .generalProtection (some 0#16) s.pc s)) ∧
    (s.env.protectedMode = true → s.env.cpl = 0#2 → (s.reg16 r).getLsbD 2 = true →
      exec (.ltr r) s = .fault (.exception .generalProtection (some (s.reg16 r)) s.pc s)) ∧
    (s.env.protectedMode = true → s.env.cpl = 0#2 → s.gdtEntry (s.reg16 r) = none →
      exec (.ltr r) s = .fault (.exception .generalProtection (some (s.reg16 r)) s.pc s)) ∧
    (∀ (d : BitVec 32) (lo hi : List Byte), s.env.protectedMode = true → s.env.cpl = 0#2 →
      s.gdtEntry (s.reg16 r) = some d → d.toNat % 4 = 0 → d.toNat + 8 ≤ 2 ^ 32 → regionsAligned s.cfg →
      s.loadBytes d.toNat 4 = .ok lo → s.loadBytes (d.toNat + 4) 4 = .ok hi →
      s.tssKindOf (leValue hi ++ leValue lo) = none →
      exec (.ltr r) s = .fault (.exception .generalProtection (some (s.reg16 r)) s.pc s))

/-- STR completes in protected mode at every level (R191, R193): the visible selector in the low half of the register, the
high half unchanged.
That it completes before the first load of the Task Register too, with the selector of reset, is the model's choice,
against the refusal of the spec's decision D26 (logs 2 and 27). -/
def Obligations.StrStoresTheSelector : Prop :=
  ∀ (r : GReg) (s : State), s.env.protectedMode = true →
    ∃ t, exec (.str r) s = .next t ∧ t.reg16 r = s.trSelector ∧
      (t.reg32 r).extractLsb' 16 16 = (s.reg32 r).extractLsb' 16 16 ∧ otherRegisters r s t ∧ RegisterFrame s t ∧
      pcAdvanced 3 s t

/-! ### The debug registers -/

/-- MOV DRn, r32 completes at level 0 with GD = 0 for the six registers (R312): an address register takes the value,
DR6 and DR7 take its named bits and drop the others; nothing else changes.
Bit positions are the spec's general knowledge, the dropped bits its decision D20 (logs 17 and 36). -/
def Obligations.MovToDebugRegisterWrites : Prop :=
  ∀ (n : DrNum) (r : GReg) (s : State), n.named = true → s.env.cpl = 0#2 → s.dr7.getLsbD 13 = false →
    ∃ t, exec (.movDrR32 n r) s = .next t ∧
      (∀ i : Fin 4, t.dr[i] = if drAddress n = some i then s.reg32 r else s.dr[i]) ∧
      t.dr6 = (if n = .dr6 then s.reg32 r &&& 0x0000C00F#32 else s.dr6) ∧
      t.dr7 = (if n = .dr7 then s.reg32 r &&& 0xFFFF20FF#32 else s.dr7) ∧
      sameRegisters s t ∧ sameMemory s t ∧ sameSystem s t ∧ sameTaskRegister s t ∧ sameConfig s t ∧ sameSelection s t ∧
      samePlatform s t ∧ noIoCycle s t ∧ noAccess s t ∧ pcAdvanced 3 s t

/-- MOV r32, DRn completes at level 0 with GD = 0 for the six registers (R313): an address register's value, or the named
bits of DR6 or DR7 at their places; of the other bits nothing is said. The read has no side effect.
Bit positions are the spec's general knowledge, the free bits its decision D20 (logs 17 and 36). -/
def Obligations.MovFromDebugRegisterReads : Prop :=
  ∀ (n : DrNum) (r : GReg) (s : State), n.named = true → s.env.cpl = 0#2 → s.dr7.getLsbD 13 = false →
    ∃ t, exec (.movR32Dr r n) s = .next t ∧
      (∀ i : Fin 4, drAddress n = some i → t.reg32 r = s.dr[i]) ∧
      (n = .dr6 → t.reg32 r &&& 0x0000C00F#32 = s.dr6 &&& 0x0000C00F#32) ∧
      (n = .dr7 → t.reg32 r &&& 0xFFFF20FF#32 = s.dr7 &&& 0xFFFF20FF#32) ∧
      otherRegisters r s t ∧ RegisterFrame s t ∧ pcAdvanced 3 s t

/-- Where the MOVs with a debug register stop, in the order of R312 and R313: the numbers 4 and 5 are refused at every
level (R333), another level is a general protection exception (R311), and with GD = 1 a debug exception is taken
before the MOV that clears GD and sets no bit of DR6 (R330).
Which exception is raised is the spec's decision D25. -/
def Obligations.DebugRegisterMovesTrap : Prop :=
  ∀ (n : DrNum) (r : GReg) (s : State) (i : Instr), i = .movDrR32 n r ∨ i = .movR32Dr r n →
    (n.named = false → exec i s = .refused (.debugRegisterNumber n)) ∧
    (n.named = true → s.env.cpl ≠ 0#2 → exec i s = .fault (.exception .generalProtection none s.pc s)) ∧
    (n.named = true → s.env.cpl = 0#2 → s.dr7.getLsbD 13 = true →
      exec i s = .fault (.exception .debug none s.pc { s with dr7 := s.dr7 &&& 0xFFFFDFFF#32 }))

/-- A debug exception clears GD, whatever its cause, and changes nothing else of DR7 (R329). Every debug exception of a
step is the check before the instruction or that of the instruction at `pc` itself, and DR7 is then compared with the
one before the step; or it is the check after that instruction, and DR7 is then compared with the one it left.
That nothing else of DR7 changes is the spec's own inference: "the source lists no other change". -/
def Obligations.DebugExceptionClearsGd : Prop :=
  ∀ (s u : State) (k : Option (BitVec 16)) (pc : BitVec 32),
    step s = .fault (.exception .debug k pc u) →
      u.dr7.getLsbD 13 = false ∧
      ((u.dr7 = s.dr7 &&& 0xFFFFDFFF#32 ∧
          (s.passQuiet.beforeInstruction = .fault (.exception .debug k pc u) ∨
            ∃ i rest, decode s.passQuiet.fetchBytes.1 = .ok (i, rest) ∧
              exec i s.passQuiet.clearAccesses = .fault (.exception .debug k pc u))) ∨
        (∃ i rest t, decode s.passQuiet.fetchBytes.1 = .ok (i, rest) ∧ exec i s.passQuiet.clearAccesses = .next t ∧
          t.afterInstruction s.tf = .fault (.exception .debug k pc u) ∧ u.dr7 = t.dr7 &&& 0xFFFFDFFF#32))

/-- What the processor writes at a debug exception (R322 to R325, R329): in DR6 the bits of the causes are set and none is
cleared; in DR7 only GD changes; nothing else of the machine changes.
Bit positions are the spec's general knowledge (log 36). -/
def Obligations.DebugExceptionSetsItsCauses : Prop :=
  ∀ (s : State) (hits : List (Fin 4)) (bs bt : Bool) (pc : BitVec 32),
    ∃ u, (debugException s hits bs bt pc : Result State) = .fault (.exception .debug none pc u) ∧ sameButDebugStatus s u ∧
      u.dr7 = s.dr7 &&& 0xFFFFDFFF#32 ∧
      (∀ i : Fin 4, u.dr6.getLsbD i.val = (s.dr6.getLsbD i.val || decide (i ∈ hits))) ∧
      u.dr6.getLsbD 14 = (s.dr6.getLsbD 14 || bs) ∧ u.dr6.getLsbD 15 = (s.dr6.getLsbD 15 || bt) ∧
      (∀ k : Nat, 4 ≤ k → k ≠ 14 → k ≠ 15 → u.dr6.getLsbD k = s.dr6.getLsbD k)

/-- "Instruction execution breakpoints are always taken before execution of the instruction that matches the breakpoint"
(R328): the pc reported is that instruction's, every breakpoint that matches shows in DR6, enabled or not (R322), and
nothing else is written. A breakpoint matches an instruction exactly when R/W and LEN are 00b and its address is that of
the instruction (R316).
The linear address is the base plus the pc (log 6); that the length must be one byte is the spec's general knowledge. -/
def Obligations.ExecutionBreakpointComesFirst : Prop :=
  (∀ (s : State) (i : Fin 4), bpMatchesInstr s i = true ↔ instrMeetsBreakpoint s i) ∧
  ∀ (s : State) (i : Fin 4), readyToRun s → (∀ j : Fin 4, breakpointOn s.dr7 j → ¬ breakpointUnusable s.dr7 j) →
    breakpointOn s.dr7 i → instrMeetsBreakpoint s i →
    ∃ u, step s = .fault (.exception .debug none s.pc u) ∧ sameButDebugStatus s.passQuiet u ∧
      u.dr6.getLsbD i.val = true ∧
      (∀ j : Fin 4, u.dr6.getLsbD j.val = true ↔ s.dr6.getLsbD j.val = true ∨ instrMeetsBreakpoint s j) ∧
      (∀ k : Nat, 4 ≤ k → u.dr6.getLsbD k = s.dr6.getLsbD k) ∧ u.dr7 = s.dr7 &&& 0xFFFFDFFF#32

/-- Single step (R324, R326): with TF = 1 every instruction that completes is followed by a debug exception with BS set,
reported with the pc of the next instruction; its own effect stands. That pc is the one the instruction left, but for a
HLT, which leaves its own (R270): there it is the byte after the HLT.
That the pc reported is the next instruction's is the spec's general knowledge; that the state left after a HLT is still
halted or suspended, with the HLT's pc in it, is the model's reading of R270 beside R326 (log 22). -/
def Obligations.SingleStepFollowsTheInstruction : Prop :=
  ∀ (s v t : State) (i : Instr) (rest : List Byte), readyToRun s → v = s.passQuiet → s.tf = true →
    v.beforeInstruction = .next v.clearAccesses → regionsAligned s.cfg → decode v.fetchBytes.1 = .ok (i, rest) →
    exec i v.clearAccesses = .next t →
    ∃ pc u, step s = .fault (.exception .debug none pc u) ∧ (i ≠ .hlt → pc = t.pc) ∧
      (i = .hlt → s.pc.toNat + 1 < s.pcLimit → pc = s.pc + 1#32) ∧ sameButDebugStatus t u ∧
      u.dr6.getLsbD 14 = true ∧ u.dr7 = t.dr7 &&& 0xFFFFDFFF#32

/-- Data breakpoints, in the check after an instruction (R316, R331, R332): an enabled breakpoint whose bytes share one
with an access of a kind that fits R/W is a debug exception that sets the DR6 bit of every breakpoint so met, enabled or
not, and no other; where no access meets an enabled breakpoint there is none. A breakpoint matches an access exactly when
the access meets it. The breakpoint starts at its address rounded down to its length (D22).
That it comes after the instruction is the spec's general knowledge, the rounding its decision D22 (log 36). -/
def Obligations.DataBreakpointsAreTakenAfter : Prop :=
  (∀ (t : State) (i : Fin 4) (a : Access), a ∈ t.accesses → breakpointOn t.dr7 i → accessMeetsBreakpoint t i a →
    ∃ pc u, t.afterInstruction false = .fault (.exception .debug none pc u) ∧ (t.activity = .running → pc = t.pc) ∧
      sameButDebugStatus t u ∧ u.dr6.getLsbD i.val = true ∧
      (∀ j : Fin 4, u.dr6.getLsbD j.val = true ↔
        t.dr6.getLsbD j.val = true ∨ ∃ b, b ∈ t.accesses ∧ accessMeetsBreakpoint t j b) ∧
      (∀ k : Nat, 4 ≤ k → u.dr6.getLsbD k = t.dr6.getLsbD k) ∧ u.dr7 = t.dr7 &&& 0xFFFFDFFF#32) ∧
  (∀ t : State, (∀ (i : Fin 4) (a : Access), a ∈ t.accesses → breakpointOn t.dr7 i → ¬ accessMeetsBreakpoint t i a) →
    t.afterInstruction false = .next t) ∧
  (∀ (t : State) (i : Fin 4) (a : Access), bpMatchesAccess t i a = true ↔ accessMeetsBreakpoint t i a)

/-- An enabled breakpoint with R/W = 10b (R317), LEN = 10b (R318) or an execution breakpoint longer than a byte (R316)
is refused when it is evaluated, before the instruction. One that is not enabled stops nothing, whatever the others
are: a refusal always names an enabled one that cannot be used, one that cannot be used matches nothing, and with no
enabled one that cannot be used or matches the instruction is reached.
The refusals are the spec's decision D21. -/
def Obligations.UnusableBreakpointsAreRefused : Prop :=
  (∀ (s : State) (i : Fin 4), readyToRun s → breakpointOn s.dr7 i → breakpointUnusable s.dr7 i →
    ∃ r : Refusal, s.passQuiet.beforeInstruction = .refused r ∧ step s = .refused r) ∧
  (∀ (s : State) (r : Refusal), s.beforeInstruction = .refused r →
    ∃ j : Fin 4, breakpointOn s.dr7 j ∧ breakpointUnusable s.dr7 j ∧ bpProblem s.dr7 j = some r ∧
      r ∈ [.breakpointTypeNotUsed j, .breakpointLengthNotUsed j, .executionBreakpointLength j]) ∧
  (∀ (s : State) (i : Fin 4), breakpointUnusable s.dr7 i →
    bpMatchesInstr s i = false ∧ ∀ a : Access, bpMatchesAccess s i a = false) ∧
  (∀ s : State, (∀ i : Fin 4, breakpointOn s.dr7 i → ¬ breakpointUnusable s.dr7 i ∧ ¬ instrMeetsBreakpoint s i) →
    s.beforeInstruction = .next s.clearAccesses)

/-- The debug effects of a task switch (R320, R321, R323): every L bit is cleared, every other bit of DR7 stays, the G
bits among them; with the T bit of the incoming TSS a debug exception with BT set.
No step reaches it, since a task switch is refused (R214). -/
def Obligations.TaskSwitchClearsLocalBreakpoints : Prop :=
  ∀ s : State,
    (∃ t, taskSwitchDebugEffects false s = .next t ∧ t = { s with dr7 := t.dr7 } ∧
      (∀ i : Fin 4, t.dr7.getLsbD (2 * i.val) = false) ∧
      (∀ k : Nat, k ≠ 0 → k ≠ 2 → k ≠ 4 → k ≠ 6 → t.dr7.getLsbD k = s.dr7.getLsbD k)) ∧
    (∃ u, taskSwitchDebugEffects true s = .fault (.exception .debug none s.pc u) ∧ u.dr6.getLsbD 15 = true ∧
      (∀ i : Fin 4, u.dr7.getLsbD (2 * i.val) = false ∧ u.dr7.getLsbD (2 * i.val + 1) = s.dr7.getLsbD (2 * i.val + 1)))

/-! ### HLT, LOOP, CPUID, INT 3 -/

/-- HLT ends the run, suspended with CCR2.SUSP_HLT = 1 and halted otherwise, with the pc still at the HLT and nothing
else changed (R270); at a level other than 0 of protected mode it is a general protection exception (R354). A step
of a halted or suspended CPU executes nothing: without an event or an NMI it is the fault of that name (D33).
The privilege check is the spec's general knowledge (log 21), the end of the run its decision D33 (log 38). -/
def Obligations.HltEndsTheRun : Prop :=
  ∀ s : State,
    (s.env.protectedMode = false ∨ s.env.cpl = 0#2 →
      exec .hlt s = .next { s with activity := if (configByte s.cfg 0xC2#8).getLsbD 3 then .suspended .hlt else .halted }) ∧
    (s.env.protectedMode = true → s.env.cpl ≠ 0#2 →
      exec .hlt s = .fault (.exception .generalProtection none s.pc s)) ∧
    (s.events = [] → s.nmiPending = false → s.activity ≠ .running → step s = .fault (.stopped s.activity))

/-- LOOP with 16-bit addresses (R143, R158, R271): CX less one modulo 2^16 with the high half of ECX untouched, the branch
to `pc + 2 + rel8` modulo 2^16 unless the count is now 0.
The rule is the spec's general knowledge, the truncation log 7. -/
def Obligations.LoopCountsInCx : Prop :=
  ∀ (rel : BitVec 8) (s : State), s.env.addrSize = .bits16 →
    ∃ t, exec (.loop rel) s = .next t ∧ (t.reg16 .c).toNat = ((s.reg16 .c).toNat + 65535) % 65536 ∧
      (t.reg32 .c).extractLsb' 16 16 = (s.reg32 .c).extractLsb' 16 16 ∧ otherRegisters .c s t ∧ RegisterFrame s t ∧
      (s.reg16 .c ≠ 1#16 → (t.pc.toNat : Int) = ((s.pc.toNat : Int) + 2 + rel.toInt) % 65536) ∧
      (s.reg16 .c = 1#16 → pcAdvanced 2 s t)

/-- LOOP with 32-bit addresses (R143, R158, R271): ECX less one modulo 2^32, the branch to `pc + 2 + rel8` modulo 2^32
unless the count is now 0.
The rule is the spec's general knowledge, the truncation log 7. -/
def Obligations.LoopCountsInEcx : Prop :=
  ∀ (rel : BitVec 8) (s : State), s.env.addrSize = .bits32 →
    ∃ t, exec (.loop rel) s = .next t ∧ (t.reg32 .c).toNat = ((s.reg32 .c).toNat + 4294967295) % 4294967296 ∧
      otherRegisters .c s t ∧ RegisterFrame s t ∧
      (s.reg32 .c ≠ 1#32 → (t.pc.toNat : Int) = ((s.pc.toNat : Int) + 2 + rel.toInt) % 4294967296) ∧
      (s.reg32 .c = 1#32 → pcAdvanced 2 s t)

/-- CPUID stops on every path (R272): an invalid opcode with CCR4.CPUID = 0, reported with its own pc and with nothing
written, and a refusal with CCR4.CPUID = 1.
The refusal is the spec's decision D40, the pc reported its general knowledge. -/
def Obligations.CpuidStops : Prop :=
  ∀ s : State,
    ((configByte s.cfg 0xE8#8).getLsbD 7 = false →
      exec .cpuid s = .fault (.exception .invalidOpcode none s.pc s)) ∧
    ((configByte s.cfg 0xE8#8).getLsbD 7 = true → exec .cpuid s = .refused .cpuidResults)

/-- INT 3 is a breakpoint exception on every path (R327), in every mode and at every level, reported with the pc of the
byte after it and with nothing written, DR6 and DR7 among the rest.
The name of the exception and the pc reported are the spec's general knowledge and decision D23. -/
def Obligations.Int3RaisesBreakpoint : Prop :=
  ∀ s : State, ∃ pc, exec .int3 s = .fault (.exception .breakpoint none pc s) ∧
    (s.pc.toNat + 1 < s.pcLimit → pc = s.pc + 1#32)

/-! ### Ports 22h and 23h -/

/-- A byte written to port 22h (R221, R240, R242), by either OUT: it is the new index and a selection is pending, whatever
was selected before; whether the platform sees the write is the parameter PORT22_WRITE_EXTERNAL.
The parameter is the spec's decision D5 (log 14). -/
def Obligations.OutToPort22Selects : Prop :=
  ∀ (i : Instr) (s : State) (n : Nat), writesPort i s 0x22#16 n → portAllowed s →
    ∃ t, exec i s = .next t ∧ t.cfgIndex = s.reg8 .al ∧ t.cfgArmed = true ∧
      t.ioCycles = (if Config.port22WriteExternal (s.reg8 .al) then .write 0x22#16 (s.reg8 .al) :: s.ioCycles
        else s.ioCycles) ∧
      sameConfig s t ∧ sameRegisters s t ∧ PortFrame s t ∧ pcAdvanced n s t

/-- A byte written to any other port, or to port 23h with no selection pending, is an external I/O cycle (R224, R225,
R240, R242): the selection and every register stay as they were.
That other ports leave the selection is the spec's decision D7. -/
def Obligations.OutElsewhereIsExternal : Prop :=
  ∀ (i : Instr) (s : State) (port : BitVec 16) (n : Nat), writesPort i s port n → portAllowed s → port ≠ 0x22#16 →
    (port = 0x23#16 → s.cfgArmed = false) →
    ∃ t, exec i s = .next t ∧ t.ioCycles = .write port (s.reg8 .al) :: s.ioCycles ∧ sameSelection s t ∧ sameConfig s t ∧
      sameRegisters s t ∧ PortFrame s t ∧ pcAdvanced n s t

/-- A byte written to port 23h that hits a configuration register with no reserved bit (R233, R236, R237): every bit is
stored but those SMI_LOCK covers outside an SMI service routine, and SMI_LOCK itself, which a 0 does not clear; no
other register changes, the selection is used up and no external cycle is made. The two masks are the table of R233,
by index; an index that is not listed has no bit in either.
That a barred write is dropped in silence is the spec's decision D12 (log 35). -/
def Obligations.OutToPort23StoresTheRegister : Prop :=
  (∀ (i : Instr) (s : State) (n : Nat), writesPort i s 0x23#16 n → portAllowed s → s.cfgArmed = true →
    classify s.cfgIndex (mapen s.cfg) = .onChip → (configPlace s.cfgIndex).isSome = true →
    s.reg8 .al &&& reservedMask s.cfgIndex = 0#8 →
    ∃ t, exec i s = .next t ∧ t.cfgArmed = false ∧ t.cfgIndex = s.cfgIndex ∧
      (∀ k : Nat, k < 8 → (configByte t.cfg s.cfgIndex).getLsbD k =
        if s.cfgIndex = 0xC3#8 ∧ k = 0 then (configByte s.cfg s.cfgIndex).getLsbD 0 || (s.reg8 .al).getLsbD 0
        else if smiLock s.cfg = true ∧ s.env.smm = false ∧ (lockMask s.cfgIndex).getLsbD k = true
        then (configByte s.cfg s.cfgIndex).getLsbD k else (s.reg8 .al).getLsbD k) ∧
      (∀ j : BitVec 8, j ≠ s.cfgIndex → configByte t.cfg j = configByte s.cfg j) ∧
      sameRegisters s t ∧ PortFrame s t ∧ noIoCycle s t ∧ pcAdvanced n s t) ∧
  (∀ j : BitVec 8, reservedMask j =
    (([(0xC0#8, 0xFD#8), (0xC1#8, 0x69#8), (0xC2#8, 0x61#8), (0xC3#8, 0x08#8), (0xDC#8, 0xC0#8), (0xDD#8, 0xC0#8),
      (0xDE#8, 0xC0#8), (0xDF#8, 0xC0#8), (0xE0#8, 0xC0#8), (0xE1#8, 0xC0#8), (0xE2#8, 0xC0#8), (0xE3#8, 0xC0#8),
      (0xE8#8, 0x68#8), (0xE9#8, 0xCC#8)] : List (BitVec 8 × BitVec 8)).lookup j).getD 0x00#8) ∧
  (∀ j : BitVec 8, lockMask j =
    (([(0xC1#8, 0x86#8), (0xC3#8, 0x02#8), (0xCD#8, 0xFF#8), (0xCE#8, 0xFF#8), (0xCF#8, 0xFF#8)] :
      List (BitVec 8 × BitVec 8)).lookup j).getD 0x00#8)

/-- A byte written to port 23h that reaches no writable register: DIR0 and DIR1 are hit on chip and unchanged (R234), an
index hidden by MAPEN = 0h goes to the external bus (R228); either way the selection is used up.
That the selection is used up is the spec's decision D4, the write to DIR0 or DIR1 its decision D11. -/
def Obligations.OutToPort23ElsewhereUsesTheSelection : Prop :=
  ∀ (i : Instr) (s : State) (n : Nat), writesPort i s 0x23#16 n → portAllowed s → s.cfgArmed = true →
    (s.cfgIndex = 0xFE#8 ∨ s.cfgIndex = 0xFF#8 →
      ∃ t, exec i s = .next t ∧ t.cfgArmed = false ∧ sameConfig s t ∧ sameRegisters s t ∧ PortFrame s t ∧ noIoCycle s t ∧
        pcAdvanced n s t) ∧
    (classify s.cfgIndex (mapen s.cfg) = .external →
      ∃ t, exec i s = .next t ∧ t.cfgArmed = false ∧ sameConfig s t ∧ sameRegisters s t ∧ PortFrame s t ∧
        t.ioCycles = .write 0x23#16 (s.reg8 .al) :: s.ioCycles ∧ pcAdvanced n s t)

/-- Where the port instructions are refused: in protected mode at a level other than 0 (R355); a read of port 22h with a
selection pending (R222); with a selection pending at port 23h, a MAPEN value the source does not define (R229), a
write to an index without a register (R230), a write of 1 to a reserved bit (R233).
The refusals are the spec's decisions D6, D8, D9 and D10 and its rule on the premise of a port access (log 35). -/
def Obligations.PortInstructionsRefuse : Prop :=
  ∀ (i : Instr) (s : State) (port : BitVec 16) (n : Nat), writesPort i s port n ∨ readsPort i s port n →
    (¬ portAllowed s → exec i s = .refused .ioPermission) ∧
    (portAllowed s → readsPort i s port n → port = 0x22#16 → s.cfgArmed = true →
      exec i s = .refused .port22ReadWhileArmed) ∧
    (portAllowed s → port = 0x23#16 → s.cfgArmed = true → classify s.cfgIndex (mapen s.cfg) = .undefined →
      exec i s = .refused (.mapenUndefined (mapen s.cfg))) ∧
    (portAllowed s → writesPort i s port n → port = 0x23#16 → s.cfgArmed = true →
      classify s.cfgIndex (mapen s.cfg) = .noRegister → exec i s = .refused (.noRegisterWritten s.cfgIndex)) ∧
    (portAllowed s → writesPort i s port n → port = 0x23#16 → s.cfgArmed = true →
      classify s.cfgIndex (mapen s.cfg) = .onChip → s.reg8 .al &&& reservedMask s.cfgIndex ≠ 0#8 →
      exec i s = .refused (.reservedBitWritten s.cfgIndex))

/-- A byte read from a port other than 23h, port 22h only with no selection pending, or from port 23h with no selection
pending, is an external I/O cycle whose value the platform chooses (R222, R224, R225, R241, R243): AL holds the value
of the cycle, and the selection stays as it was.
The value is free (log 16); that a read of another port leaves a pending selection is the spec's decision D7 (log 35). -/
def Obligations.InElsewhereIsExternal : Prop :=
  ∀ (i : Instr) (s : State) (port : BitVec 16) (n : Nat), readsPort i s port n → portAllowed s →
    (port = 0x22#16 ∨ port = 0x23#16 → s.cfgArmed = false) →
    ∃ t, exec i s = .next t ∧ t.ioCycles = .read port (t.reg8 .al) :: s.ioCycles ∧ sameSelection s t ∧ sameConfig s t ∧
      otherBytes .al s t ∧ PortFrame s t ∧ pcAdvanced n s t

/-- A byte read from port 23h that hits on chip is the register selected (R232), DIR0 and DIR1 among them; the selection
is used up, nothing else changes and no external cycle is made.
DEVID, SID and RID are open constants (log 11). -/
def Obligations.InFromPort23ReadsTheRegister : Prop :=
  ∀ (i : Instr) (s : State) (n : Nat), readsPort i s 0x23#16 n → portAllowed s → s.cfgArmed = true →
    classify s.cfgIndex (mapen s.cfg) = .onChip →
    ∃ t, exec i s = .next t ∧ t.reg8 .al = configByte s.cfg s.cfgIndex ∧ t.cfgArmed = false ∧ t.cfgIndex = s.cfgIndex ∧
      sameConfig s t ∧ otherBytes .al s t ∧ PortFrame s t ∧ noIoCycle s t ∧ pcAdvanced n s t

/-- A byte read from port 23h that hits no register: hidden by MAPEN = 0h it is an external cycle (R228); with MAPEN = 1h
and an index without a register it makes no external cycle and its value is free (R227, R230). Either way the
selection is used up.
The value is free (log 16); the read without a register is the spec's decision D9, that an access which goes outside
uses the selection up its decision D4 (log 35). -/
def Obligations.InFromPort23ElsewhereUsesTheSelection : Prop :=
  ∀ (i : Instr) (s : State) (n : Nat), readsPort i s 0x23#16 n → portAllowed s → s.cfgArmed = true →
    (classify s.cfgIndex (mapen s.cfg) = .external →
      ∃ t, exec i s = .next t ∧ t.cfgArmed = false ∧ t.ioCycles = .read 0x23#16 (t.reg8 .al) :: s.ioCycles ∧
        sameConfig s t ∧ otherBytes .al s t ∧ PortFrame s t ∧ pcAdvanced n s t) ∧
    (classify s.cfgIndex (mapen s.cfg) = .noRegister →
      ∃ t, exec i s = .next t ∧ t.cfgArmed = false ∧ noIoCycle s t ∧ sameConfig s t ∧ otherBytes .al s t ∧
        PortFrame s t ∧ pcAdvanced n s t)

/-- One selection buys one transfer (R220, R223): after any port 23h access that completes no selection is pending, and
the next port 23h access, if it completes, is an external I/O cycle that touches no configuration register.
That the first access takes the selection, wherever it goes, is the spec's decision D4. -/
def Obligations.OneSelectionBuysOneTransfer : Prop :=
  ∀ (i j : Instr) (s t u : State) (n m : Nat), writesPort i s 0x23#16 n ∨ readsPort i s 0x23#16 n → exec i s = .next t →
    writesPort j t 0x23#16 m ∨ readsPort j t 0x23#16 m → exec j t = .next u →
    t.cfgArmed = false ∧ u.cfgArmed = false ∧ sameConfig t u ∧ ∃ c, u.ioCycles = c :: t.ioCycles

/-- The classification of an index by MAPEN, as ranges (R231).
The function is the spec's own inference from R226 to R230. -/
def Obligations.ClassifyByRanges : Prop :=
  ∀ (i : BitVec 8) (m : BitVec 4),
    let open18 := (0xC0 ≤ i.toNat ∧ i.toNat ≤ 0xCF) ∨ i.toNat = 0xFE ∨ i.toNat = 0xFF
    let register := (0xC0 ≤ i.toNat ∧ i.toNat ≤ 0xE3) ∨ i.toNat = 0xE8 ∨ i.toNat = 0xE9 ∨ i.toNat = 0xFE ∨ i.toNat = 0xFF
    (open18 → classify i m = .onChip) ∧
    (¬ open18 → m.toNat = 0 → classify i m = .external) ∧
    (¬ open18 → m.toNat = 1 → register → classify i m = .onChip) ∧
    (¬ open18 → m.toNat = 1 → ¬ register → classify i m = .noRegister) ∧
    (¬ open18 → 2 ≤ m.toNat → classify i m = .undefined)

/-! ### Address regions and memory -/

/-- The start and the size of a region from its three bytes (R281, R282): bits A31 to A12 in the three bytes, and Table
2-18, with its jump to 4 GBytes at Fh (C11); a region of zero size contains no address. -/
def Obligations.RegionExtentFromItsBytes : Prop :=
  ∀ (cf : ConfigFile) (n : Fin 8),
    let b0 := configByte cf (BitVec.ofNat 8 (0xC4 + 3 * n.val))
    let b1 := configByte cf (BitVec.ofNat 8 (0xC5 + 3 * n.val))
    let b2 := configByte cf (BitVec.ofNat 8 (0xC6 + 3 * n.val))
    regionStart cf n = b0.toNat * 2 ^ 24 + b1.toNat * 2 ^ 16 + b2.toNat / 16 * 2 ^ 12 ∧
    (b2.toNat % 16 = 0 → regionSize cf n = 0 ∧ ∀ a, regionHit cf n a = false) ∧ (b2.toNat % 16 = 15 → regionSize cf n = 2 ^ 32) ∧
    (1 ≤ b2.toNat % 16 → b2.toNat % 16 ≤ 14 → n ≠ 7 → regionSize cf n = 2 ^ (11 + b2.toNat % 16)) ∧
    (1 ≤ b2.toNat % 16 → b2.toNat % 16 ≤ 14 → n = 7 → regionSize cf n = 2 ^ (17 + b2.toNat % 16))

/-- An address in no region has the default attributes (R298), with the exceptions the rule names kept out, and after
reset every address has them. -/
def Obligations.DefaultAttributesOutsideRegions : Prop :=
  (∀ (cf : ConfigFile) (ken wbwt rce : Bool) (a : Nat), regionsAligned cf → (∀ n, regionHit cf n a = false) →
    ¬ (regionActive cf 7 = true ∧ rcdRce cf 7 = true) → noLock cf = false →
    (0xA0000 ≤ a → a ≤ 0xFFFFF → nc1 cf = false ∧ wpr1 cf = false) →
    attributesOf rce cf ken wbwt a = .ok ⟨true, ken, ken && wbwt, false, false, false, true, false⟩) ∧
  (∀ (ken wbwt rce : Bool) (a : Nat),
    attributesOf rce State.reset.cfg ken wbwt a = .ok ⟨true, ken, ken && wbwt, false, false, false, true, false⟩)

/-- The attributes regions give (R284, R285, R299). A region is hit by the addresses from its start to its end, while it is
enabled, by ARREN or for region 3 by SM3, and its SIZE is not 0; its attributes are the bits of its RCR (R22). Where
regions overlap, the listed value of each attribute wins over whatever the other regions say, and a value on which
every region hit agrees stands: for caching outside NC1 (R302) and outside RCE_OUTSIDE_NONCACHEABLE (R291), for LBA#
outside LBR1; region 7 speaks by RCE, the others by RCD (R290, R291). NO_LOCK makes locking weak for every address
(R128, R293).
Which regions are hit is the spec's decision D15, the operators are its decision D16, RCE = 0 is its decision D17 and
that WT = 0 leaves the write policy to the pin its decision D19 (logs 12 and 37). -/
def Obligations.OverlappingRegionsPrecedence : Prop :=
  (∀ (cf : ConfigFile) (n : Fin 8) (a : Nat), regionHit cf n a = true ↔
    ((configByte cf 0xE9#8).getLsbD 5 = true ∨ (n = 3 ∧ (configByte cf 0xC1#8).getLsbD 7 = true)) ∧
      (configByte cf (BitVec.ofNat 8 (0xC6 + 3 * n.val))).toNat % 16 ≠ 0 ∧
      regionStart cf n ≤ a ∧ a < regionStart cf n + regionSize cf n) ∧
  (∀ (cf : ConfigFile) (n : Fin 8),
    let b := configByte cf (BitVec.ofNat 8 (0xDC + n.val))
    nlb cf n = b.getLsbD 5 ∧ wt cf n = b.getLsbD 4 ∧ wg cf n = b.getLsbD 3 ∧ wl cf n = b.getLsbD 2 ∧
      wwo cf n = b.getLsbD 1 ∧ rcdRce cf n = b.getLsbD 0) ∧
  ∀ (cf : ConfigFile) (ken wbwt rce : Bool) (a : Nat) (t : Attributes), attributesOf rce cf ken wbwt a = .ok t →
    ((configByte cf 0xC1#8).getLsbD 4 = true → t.weakLock = true) ∧
    (∀ n : Fin 8, regionHit cf n a = true →
      (nlb cf n = false → t.lbaAsserted = true) ∧
      ((if n = 7 then rcdRce cf n = false else rcdRce cf n = true) →
        t.cachePermitted = false ∧ t.cached = false ∧ t.writeBack = false) ∧
      (wt cf n = true → t.writeBack = false) ∧ (wg cf n = false → t.gathered = false) ∧
      (wl cf n = false → noLock cf = false → t.weakLock = false) ∧ (wwo cf n = false → t.weakOrder = false)) ∧
    ((∃ n : Fin 8, regionHit cf n a = true) →
      ((∀ n, regionHit cf n a = true → wg cf n = true) → t.gathered = true) ∧
      ((∀ n, regionHit cf n a = true → wl cf n = true) → t.weakLock = true) ∧
      ((∀ n, regionHit cf n a = true → wwo cf n = true) → t.weakOrder = true) ∧
      ((∀ n, regionHit cf n a = true → nlb cf n = true) → ¬ (0xA0000 ≤ a ∧ a ≤ 0xFFFFF ∧ lbr1 cf = true) →
        t.lbaAsserted = false) ∧
      ((∀ n : Fin 8, regionHit cf n a = true → if n = 7 then rcdRce cf n = true else rcdRce cf n = false) →
        ¬ (0xA0000 ≤ a ∧ a ≤ 0xFFFFF ∧ nc1 cf = true) →
        ¬ (rce = true ∧ regionActive cf 7 = true ∧ rcdRce cf 7 = true ∧ regionHit cf 7 a = false) →
        t.cachePermitted = true ∧ t.cached = ken ∧
          ((∀ n, regionHit cf n a = true → wt cf n = false) → t.writeBack = (ken && wbwt))))

/-- While an active region does not start on a block boundary, the attributes of every address are refused, and with them
every aligned memory read and write and every fetch, whether or not the address lies near the region (R283).
The refusal is the spec's decision D14 (logs 8 and 37). -/
def Obligations.MisalignedRegionStopsEveryAccess : Prop :=
  ∀ (s : State) (n : Fin 8), (arren s.cfg = true ∨ (n = 3 ∧ sm3 s.cfg = true)) → arrSize s.cfg n ≠ 0#4 →
    regionStart s.cfg n % regionSize s.cfg n ≠ 0 →
    ∃ m : Fin 8, regionUnaligned s.cfg m = true ∧
      (∀ (rce ken wbwt : Bool) (a : Nat), attributesOf rce s.cfg ken wbwt a = .error m) ∧
      (∀ (a v : BitVec 32) (w : Width), a.toNat % w.bytes = 0 →
        s.memRead a w = .refused (.regionMisaligned m) ∧ s.memWrite a w v = .refused (.regionMisaligned m)) ∧
      s.fetch = .refused (.regionMisaligned m)

/-- The three bits of the fixed region 640 KByte to 1 MByte (R302): NC1 makes it non-cacheable, LBR1 asserts LBA#, and
WPR1 write protects it where it is cacheable, so that an aligned write there is refused (R258).
The refusal is the spec's decision D18 (log 37). -/
def Obligations.FixedRegionBits : Prop :=
  (∀ (cf : ConfigFile) (ken wbwt rce : Bool) (a : Nat) (t : Attributes), attributesOf rce cf ken wbwt a = .ok t →
    0xA0000 ≤ a → a ≤ 0xFFFFF →
    (nc1 cf = true → t.cachePermitted = false ∧ t.cached = false ∧ t.writeProtected = false) ∧
    (lbr1 cf = true → t.lbaAsserted = true) ∧ (t.writeProtected = (wpr1 cf && t.cachePermitted))) ∧
  (∀ (s : State) (a v : BitVec 32) (w : Width) (t : Attributes), a.toNat % w.bytes = 0 → s.attributes a.toNat = .ok t →
    0xA0000 ≤ a.toNat → a.toNat ≤ 0xFFFFF → wpr1 s.cfg = true → t.cachePermitted = true →
    s.memWrite a w v = .refused (.writeProtectedRegion1 a))

/-- Which of the two byte stores an access reaches (R103, R252): system management memory for an address of region 3 with
SM3 = 1 when SMAC = 1 or inside an SMI service routine, main memory otherwise; a store leaves the other one alone.
The two stores, and what an SMI service routine reaches with SMAC = 0, are the spec's decision D38 with its general
knowledge G28 (log 9). -/
def Obligations.SmacSelectsSystemManagementMemory : Prop :=
  ∀ (s : State) (a : Nat) (b : Byte),
    ((sm3 s.cfg = true ∧ regionStart s.cfg 3 ≤ a ∧ a < regionStart s.cfg 3 + regionSize s.cfg 3) →
        smac s.cfg = true ∨ s.env.smm = true →
      s.loadByte a = Memory.read s.smmMem a ∧ (s.storeByte a b).mem = s.mem ∧
      Memory.read (s.storeByte a b).smmMem a = some b) ∧
    (¬ (sm3 s.cfg = true ∧ regionStart s.cfg 3 ≤ a ∧ a < regionStart s.cfg 3 + regionSize s.cfg 3) ∨
        (smac s.cfg = false ∧ s.env.smm = false) →
      s.loadByte a = Memory.read s.mem a ∧ (s.storeByte a b).smmMem = s.smmMem ∧
      Memory.read (s.storeByte a b).mem a = some b)

/-- An aligned write that is not write protected completes, stores its bytes little-endian (R106) and no others, and a read
of the same width then gives the value back (R121); a misaligned access is refused (R108).
The byte order and the refusal of a misaligned access are the spec's decisions D1 and D2 (log 29). -/
def Obligations.MemoryWriteThenRead : Prop :=
  ∀ (s : State) (a v : BitVec 32) (w : Width),
    (a.toNat % w.bytes ≠ 0 → s.memWrite a w v = .refused (.misalignedAccess a) ∧
      s.memRead a w = .refused (.misalignedAccess a)) ∧
    (∀ t : Attributes, a.toNat % w.bytes = 0 → s.attributes a.toNat = .ok t → t.writeProtected = false →
      ∃ u x, s.memWrite a w v = .next u ∧ u.memRead a w = .next x ∧
        x.1.toNat = v.toNat % 2 ^ (8 * w.bytes) ∧
        (∀ k : Nat, k < w.bytes → u.loadByte (a.toNat + k) = some (v.extractLsb' (8 * k) 8)) ∧
        (∀ c : Nat, c < a.toNat ∨ a.toNat + w.bytes ≤ c → u.loadByte c = s.loadByte c))

/-! ### Gates, Task State Segments, gated control bits, events -/

/-- A gate descriptor written and decoded is the gate again (R179), as rows and through memory, where the decode reads and
writes nothing; rows with bit 12 and bits 7:5 zero are what their decode encodes to; the decode at an address that is
not a multiple of 4 is refused (R108).
Bits 12 and 7:5 follow the spec's decision D27; the decode's reads are memory accesses (log 8), which D2 and D14 refuse
when they are misaligned or a region is. -/
def Obligations.GateDecodeInvertsEncode : Prop :=
  (∀ g : Gate, g.sBit = false → g.unnamed = 0#3 → gateFields g.row0 g.row4 = g) ∧
  (∀ row0 row4 : BitVec 32, row4.getLsbD 12 = false → row4.extractLsb' 5 3 = 0#3 →
    (gateFields row0 row4).row0 = row0 ∧ (gateFields row0 row4).row4 = row4) ∧
  (∀ (s : State) (d : BitVec 32) (g : Gate), d.toNat + 8 ≤ 2 ^ 32 →
    (d.toNat % 4 = 0 → regionsAligned s.cfg → g.sBit = false → g.unnamed = 0#3 →
      ∃ t, (s.storeBytes d.toNat g.bytes).gateAt d = .next (g, t) ∧ sameMemory (s.storeBytes d.toNat g.bytes) t) ∧
    (d.toNat % 4 ≠ 0 → s.gateAt d = .refused (.misalignedAccess d)))

/-- The kind of a gate (R176, R174): its TYPE value decides it, one of the seven values of R176 by number, bit 12 set makes
it no gate, and bits 7:5 are ignored.
Bits 12 and 7:5 and the unlisted values follow the spec's decisions D27 and D28. -/
def Obligations.GateKindByType : Prop :=
  (∀ (g : Gate) (k : GateKind), g.kind = some k ↔ g.sBit = false ∧ g.type = k.type) ∧
  (∀ (k : GateKind) (v : BitVec 4), k.type = v ↔ (k, v) ∈ [(.callGate16, 0b0100#4), (.taskGate, 0b0101#4),
    (.interruptGate16, 0b0110#4), (.trapGate16, 0b0111#4), (.callGate32, 0b1100#4), (.interruptGate32, 0b1110#4),
    (.trapGate32, 0b1111#4)]) ∧
  (∀ row0 row4 x : BitVec 32, x &&& 0xFFFFFF1F#32 = 0#32 →
    { gateFields row0 (row4 ^^^ x) with unnamed := (gateFields row0 row4).unnamed } = gateFields row0 row4)

/-- A TSS built from its fields is its layout, row by row from offset 0 with every offset by its number (R200, R206): in
the 32-bit one the reserved halves and bits 15:1 of the row at +64h are zero (R201). Read in memory it gives every field
back, cut to the field's width, and a reserved half that is not zero is ignored.
Writing 0 to the reserved halves and ignoring them is the spec's decision D30; the reads are memory accesses (log 8), so
that the base must be aligned (D2) and every active region too (D14). -/
def Obligations.TssFieldsReadBack : Prop :=
  (∀ v : Tss32Field → BitVec 32, tss32Bytes v =
    [v .backLink &&& 0xFFFF#32, v .esp0, v .ss0 &&& 0xFFFF#32, v .esp1, v .ss1 &&& 0xFFFF#32, v .esp2,
      v .ss2 &&& 0xFFFF#32, v .cr3, v .eip, v .eflags, v .eax, v .ecx, v .edx, v .ebx, v .esp, v .ebp, v .esi, v .edi,
      v .es &&& 0xFFFF#32, v .cs &&& 0xFFFF#32, v .ss &&& 0xFFFF#32, v .ds &&& 0xFFFF#32, v .fs &&& 0xFFFF#32,
      v .gs &&& 0xFFFF#32, v .ldt &&& 0xFFFF#32, ((v .ioMapBase &&& 0xFFFF#32) <<< 16) ||| (v .tBit &&& 1#32)].flatMap
      (leBytes 4)) ∧
  (∀ v : Tss16Field → BitVec 16, tss16Bytes v =
    [v .backLink, v .sp0, v .ss0, v .sp1, v .ss1, v .sp2, v .ss2, v .ip, v .flags, v .ax, v .cx, v .dx, v .bx, v .sp,
      v .bp, v .si, v .di, v .es, v .cs, v .ss, v .ds, v .ldt].flatMap fun x => leBytes 2 (x.setWidth 32)) ∧
  (∀ p ∈ ([(.backLink, 0x00), (.esp0, 0x04), (.ss0, 0x08), (.esp1, 0x0C), (.ss1, 0x10), (.esp2, 0x14), (.ss2, 0x18),
      (.cr3, 0x1C), (.eip, 0x20), (.eflags, 0x24), (.eax, 0x28), (.ecx, 0x2C), (.edx, 0x30), (.ebx, 0x34), (.esp, 0x38),
      (.ebp, 0x3C), (.esi, 0x40), (.edi, 0x44), (.es, 0x48), (.cs, 0x4C), (.ss, 0x50), (.ds, 0x54), (.fs, 0x58),
      (.gs, 0x5C), (.ldt, 0x60), (.tBit, 0x64), (.ioMapBase, 0x64)] : List (Tss32Field × Nat)), p.1.offset = p.2) ∧
  (∀ p ∈ ([(.backLink, 0x00), (.sp0, 0x02), (.ss0, 0x04), (.sp1, 0x06), (.ss1, 0x08), (.sp2, 0x0A), (.ss2, 0x0C),
      (.ip, 0x0E), (.flags, 0x10), (.ax, 0x12), (.cx, 0x14), (.dx, 0x16), (.bx, 0x18), (.sp, 0x1A), (.bp, 0x1C),
      (.si, 0x1E), (.di, 0x20), (.es, 0x22), (.cs, 0x24), (.ss, 0x26), (.ds, 0x28), (.ldt, 0x2A)] :
      List (Tss16Field × Nat)), p.1.offset = p.2) ∧
  (∀ (s : State) (base : BitVec 32) (v : Tss32Field → BitVec 32) (f : Tss32Field), regionsAligned s.cfg →
    base.toNat % 4 = 0 → base.toNat + 0x68 ≤ 2 ^ 32 →
    ∃ t, (s.storeBytes base.toNat (tss32Bytes v)).tss32Field base f =
      .next (v f &&& BitVec.ofNat 32 (2 ^ f.width - 1), t)) ∧
  (∀ (s : State) (base : BitVec 32) (v : Tss16Field → BitVec 16) (f : Tss16Field), regionsAligned s.cfg →
    base.toNat % 2 = 0 → base.toNat + 0x2C ≤ 2 ^ 32 →
    ∃ t, (s.storeBytes base.toNat (tss16Bytes v)).tss16Field base f = .next (v f, t)) ∧
  (∀ (f : Tss32Field) (row x : BitVec 32), f.width = 16 → f ≠ .ioMapBase → x &&& 0x0000FFFF#32 = 0#32 →
    f.get (row ^^^ x) = f.get row)

/-- The two gated writes: with CCR4.CPUID = 0 a write of EFLAGS leaves the ID bit and stores every other, with 1 it stores
all (R265); with CCR2.LOCK_NW = 1 a write of CR0 leaves the NW bit and stores every other, with 0 it stores all (R256).
That a write of EFLAGS stores the bits the source does not name, all but TF and ID (R53), is the model's choice and no
part of R265 (log 45). Bit positions are the spec's general knowledge (log 36). -/
def Obligations.GatedControlBits : Prop :=
  ∀ (s : State) (v : BitVec 32) (k : Nat),
    (s.writeEflags v).eflags.getLsbD k = (if cpuidEnabled s.cfg = false ∧ k = 21 then s.eflags.getLsbD k else v.getLsbD k) ∧
    (s.writeCr0 v).cr0.getLsbD k = (if lockNw s.cfg = true ∧ k = 29 then s.cr0.getLsbD k else v.getLsbD k) ∧
    s.writeEflags v = { s with eflags := (s.writeEflags v).eflags } ∧ s.writeCr0 v = { s with cr0 := (s.writeCr0 v).cr0 }

/-- What the platform's events do (R251, R252, R259, R261, R366, R367): an SMI is ignored with USE_SMI = 0 or SMAC = 1,
ends the run otherwise, and is refused without SM3; an NMI in an SMI service routine ends the run only with NMI_EN = 1;
SUSP# suspends only with USE_SUSP = 1; a task switch and a transfer through a gate are refused (R185, R214); a boundary
at which nothing arrives leaves a halted or suspended CPU as it is.
That an honoured event ends the run is the spec's decision D24, the refusal without SM3 its decision D37; the pending
NMI is free (log 19). That SUSP# suspends between two instructions is the model's choice (log 24), and so are a
hardware interrupt that always ends the run (log 23) and the quiet boundary (log 30). -/
def Obligations.EventsAreGated : Prop :=
  ∀ (s : State) (es : List Event),
    (s.events = .smi :: es →
      (useSmi s.cfg = false ∨ smac s.cfg = true → step s = .next { s with events := es }) ∧
      (useSmi s.cfg = true → smac s.cfg = false → sm3 s.cfg = true → step s = .fault (.smi { s with events := es })) ∧
      (useSmi s.cfg = true → smac s.cfg = false → sm3 s.cfg = false → step s = .refused .useSmiWithoutSm3)) ∧
    (s.events = .nmi :: es →
      (s.env.smm = false ∨ nmiEn s.cfg = true → step s = .fault (.nmi { s with events := es })) ∧
      (s.env.smm = true → nmiEn s.cfg = false →
        ∃ t, step s = .next t ∧ t = { s with events := es, nmiPending := t.nmiPending, draws := t.draws })) ∧
    (s.events = .suspendRequest :: es →
      (useSusp s.cfg = false → step s = .next { s with events := es }) ∧
      (useSusp s.cfg = true → step s = .next { s with events := es, activity := .suspended .pin })) ∧
    (s.events = .hardwareInterrupt :: es → step s = .fault (.interrupt { s with events := es })) ∧
    (s.events = .quiet :: es →
      (s.nmiPending = true → s.env.smm = false ∨ nmiEn s.cfg = true → step s = .fault (.nmi { s with events := es })) ∧
      (s.nmiPending = false → s.activity ≠ .running → step s = .next { s with events := es })) ∧
    (s.events = .taskSwitch :: es → step s = .refused .taskSwitch) ∧
    (s.events = .gateTransfer :: es → step s = .refused .gateTransfer)
end

