-- ==== Sys2Proof/Laws/State.lean ====
section
/-! SUPPORT. One lemma per field per update of State, each true by definition, so that no proof unfolds a record
update. -/

namespace Sys2Proof.Machine

/-! ### setReg32 -/

@[simp] theorem State.setReg32_gpr (s : State) (r : GReg) (v : BitVec 32) : (s.setReg32 r v).gpr = s.gpr.set (GReg.place r) v := rfl
@[simp] theorem State.setReg32_seg (s : State) (r : GReg) (v : BitVec 32) : (s.setReg32 r v).seg = s.seg := rfl
@[simp] theorem State.setReg32_pc (s : State) (r : GReg) (v : BitVec 32) : (s.setReg32 r v).pc = s.pc := rfl
@[simp] theorem State.setReg32_eflags (s : State) (r : GReg) (v : BitVec 32) : (s.setReg32 r v).eflags = s.eflags := rfl
@[simp] theorem State.setReg32_cr0 (s : State) (r : GReg) (v : BitVec 32) : (s.setReg32 r v).cr0 = s.cr0 := rfl
@[simp] theorem State.setReg32_cr3 (s : State) (r : GReg) (v : BitVec 32) : (s.setReg32 r v).cr3 = s.cr3 := rfl
@[simp] theorem State.setReg32_dr (s : State) (r : GReg) (v : BitVec 32) : (s.setReg32 r v).dr = s.dr := rfl
@[simp] theorem State.setReg32_dr6 (s : State) (r : GReg) (v : BitVec 32) : (s.setReg32 r v).dr6 = s.dr6 := rfl
@[simp] theorem State.setReg32_dr7 (s : State) (r : GReg) (v : BitVec 32) : (s.setReg32 r v).dr7 = s.dr7 := rfl
@[simp] theorem State.setReg32_trSelector (s : State) (r : GReg) (v : BitVec 32) : (s.setReg32 r v).trSelector = s.trSelector := rfl
@[simp] theorem State.setReg32_trHidden (s : State) (r : GReg) (v : BitVec 32) : (s.setReg32 r v).trHidden = s.trHidden := rfl
@[simp] theorem State.setReg32_trLoaded (s : State) (r : GReg) (v : BitVec 32) : (s.setReg32 r v).trLoaded = s.trLoaded := rfl
@[simp] theorem State.setReg32_cfg (s : State) (r : GReg) (v : BitVec 32) : (s.setReg32 r v).cfg = s.cfg := rfl
@[simp] theorem State.setReg32_cfgIndex (s : State) (r : GReg) (v : BitVec 32) : (s.setReg32 r v).cfgIndex = s.cfgIndex := rfl
@[simp] theorem State.setReg32_cfgArmed (s : State) (r : GReg) (v : BitVec 32) : (s.setReg32 r v).cfgArmed = s.cfgArmed := rfl
@[simp] theorem State.setReg32_activity (s : State) (r : GReg) (v : BitVec 32) : (s.setReg32 r v).activity = s.activity := rfl
@[simp] theorem State.setReg32_nmiPending (s : State) (r : GReg) (v : BitVec 32) : (s.setReg32 r v).nmiPending = s.nmiPending := rfl
@[simp] theorem State.setReg32_mem (s : State) (r : GReg) (v : BitVec 32) : (s.setReg32 r v).mem = s.mem := rfl
@[simp] theorem State.setReg32_smmMem (s : State) (r : GReg) (v : BitVec 32) : (s.setReg32 r v).smmMem = s.smmMem := rfl
@[simp] theorem State.setReg32_env (s : State) (r : GReg) (v : BitVec 32) : (s.setReg32 r v).env = s.env := rfl
@[simp] theorem State.setReg32_events (s : State) (r : GReg) (v : BitVec 32) : (s.setReg32 r v).events = s.events := rfl
@[simp] theorem State.setReg32_accesses (s : State) (r : GReg) (v : BitVec 32) : (s.setReg32 r v).accesses = s.accesses := rfl
@[simp] theorem State.setReg32_ioCycles (s : State) (r : GReg) (v : BitVec 32) : (s.setReg32 r v).ioCycles = s.ioCycles := rfl
@[simp] theorem State.setReg32_draws (s : State) (r : GReg) (v : BitVec 32) : (s.setReg32 r v).draws = s.draws := rfl

/-! ### setReg16 -/

@[simp] theorem State.setReg16_gpr (s : State) (r : GReg) (v : BitVec 16) : (s.setReg16 r v).gpr = s.gpr.set (GReg.place r) ((s.reg32 r).extractLsb' 16 16 ++ v) := rfl
@[simp] theorem State.setReg16_seg (s : State) (r : GReg) (v : BitVec 16) : (s.setReg16 r v).seg = s.seg := rfl
@[simp] theorem State.setReg16_pc (s : State) (r : GReg) (v : BitVec 16) : (s.setReg16 r v).pc = s.pc := rfl
@[simp] theorem State.setReg16_eflags (s : State) (r : GReg) (v : BitVec 16) : (s.setReg16 r v).eflags = s.eflags := rfl
@[simp] theorem State.setReg16_cr0 (s : State) (r : GReg) (v : BitVec 16) : (s.setReg16 r v).cr0 = s.cr0 := rfl
@[simp] theorem State.setReg16_cr3 (s : State) (r : GReg) (v : BitVec 16) : (s.setReg16 r v).cr3 = s.cr3 := rfl
@[simp] theorem State.setReg16_dr (s : State) (r : GReg) (v : BitVec 16) : (s.setReg16 r v).dr = s.dr := rfl
@[simp] theorem State.setReg16_dr6 (s : State) (r : GReg) (v : BitVec 16) : (s.setReg16 r v).dr6 = s.dr6 := rfl
@[simp] theorem State.setReg16_dr7 (s : State) (r : GReg) (v : BitVec 16) : (s.setReg16 r v).dr7 = s.dr7 := rfl
@[simp] theorem State.setReg16_trSelector (s : State) (r : GReg) (v : BitVec 16) : (s.setReg16 r v).trSelector = s.trSelector := rfl
@[simp] theorem State.setReg16_trHidden (s : State) (r : GReg) (v : BitVec 16) : (s.setReg16 r v).trHidden = s.trHidden := rfl
@[simp] theorem State.setReg16_trLoaded (s : State) (r : GReg) (v : BitVec 16) : (s.setReg16 r v).trLoaded = s.trLoaded := rfl
@[simp] theorem State.setReg16_cfg (s : State) (r : GReg) (v : BitVec 16) : (s.setReg16 r v).cfg = s.cfg := rfl
@[simp] theorem State.setReg16_cfgIndex (s : State) (r : GReg) (v : BitVec 16) : (s.setReg16 r v).cfgIndex = s.cfgIndex := rfl
@[simp] theorem State.setReg16_cfgArmed (s : State) (r : GReg) (v : BitVec 16) : (s.setReg16 r v).cfgArmed = s.cfgArmed := rfl
@[simp] theorem State.setReg16_activity (s : State) (r : GReg) (v : BitVec 16) : (s.setReg16 r v).activity = s.activity := rfl
@[simp] theorem State.setReg16_nmiPending (s : State) (r : GReg) (v : BitVec 16) : (s.setReg16 r v).nmiPending = s.nmiPending := rfl
@[simp] theorem State.setReg16_mem (s : State) (r : GReg) (v : BitVec 16) : (s.setReg16 r v).mem = s.mem := rfl
@[simp] theorem State.setReg16_smmMem (s : State) (r : GReg) (v : BitVec 16) : (s.setReg16 r v).smmMem = s.smmMem := rfl
@[simp] theorem State.setReg16_env (s : State) (r : GReg) (v : BitVec 16) : (s.setReg16 r v).env = s.env := rfl
@[simp] theorem State.setReg16_events (s : State) (r : GReg) (v : BitVec 16) : (s.setReg16 r v).events = s.events := rfl
@[simp] theorem State.setReg16_accesses (s : State) (r : GReg) (v : BitVec 16) : (s.setReg16 r v).accesses = s.accesses := rfl
@[simp] theorem State.setReg16_ioCycles (s : State) (r : GReg) (v : BitVec 16) : (s.setReg16 r v).ioCycles = s.ioCycles := rfl
@[simp] theorem State.setReg16_draws (s : State) (r : GReg) (v : BitVec 16) : (s.setReg16 r v).draws = s.draws := rfl

/-! ### setReg8 -/

@[simp] theorem State.setReg8_gpr (s : State) (r : Reg8) (v : BitVec 8) : (s.setReg8 r v).gpr = s.gpr.set (GReg.place (Reg8.parent r)) (putByte (s.reg32 (Reg8.parent r)) (Reg8.shift r) v) := rfl
@[simp] theorem State.setReg8_seg (s : State) (r : Reg8) (v : BitVec 8) : (s.setReg8 r v).seg = s.seg := rfl
@[simp] theorem State.setReg8_pc (s : State) (r : Reg8) (v : BitVec 8) : (s.setReg8 r v).pc = s.pc := rfl
@[simp] theorem State.setReg8_eflags (s : State) (r : Reg8) (v : BitVec 8) : (s.setReg8 r v).eflags = s.eflags := rfl
@[simp] theorem State.setReg8_cr0 (s : State) (r : Reg8) (v : BitVec 8) : (s.setReg8 r v).cr0 = s.cr0 := rfl
@[simp] theorem State.setReg8_cr3 (s : State) (r : Reg8) (v : BitVec 8) : (s.setReg8 r v).cr3 = s.cr3 := rfl
@[simp] theorem State.setReg8_dr (s : State) (r : Reg8) (v : BitVec 8) : (s.setReg8 r v).dr = s.dr := rfl
@[simp] theorem State.setReg8_dr6 (s : State) (r : Reg8) (v : BitVec 8) : (s.setReg8 r v).dr6 = s.dr6 := rfl
@[simp] theorem State.setReg8_dr7 (s : State) (r : Reg8) (v : BitVec 8) : (s.setReg8 r v).dr7 = s.dr7 := rfl
@[simp] theorem State.setReg8_trSelector (s : State) (r : Reg8) (v : BitVec 8) : (s.setReg8 r v).trSelector = s.trSelector := rfl
@[simp] theorem State.setReg8_trHidden (s : State) (r : Reg8) (v : BitVec 8) : (s.setReg8 r v).trHidden = s.trHidden := rfl
@[simp] theorem State.setReg8_trLoaded (s : State) (r : Reg8) (v : BitVec 8) : (s.setReg8 r v).trLoaded = s.trLoaded := rfl
@[simp] theorem State.setReg8_cfg (s : State) (r : Reg8) (v : BitVec 8) : (s.setReg8 r v).cfg = s.cfg := rfl
@[simp] theorem State.setReg8_cfgIndex (s : State) (r : Reg8) (v : BitVec 8) : (s.setReg8 r v).cfgIndex = s.cfgIndex := rfl
@[simp] theorem State.setReg8_cfgArmed (s : State) (r : Reg8) (v : BitVec 8) : (s.setReg8 r v).cfgArmed = s.cfgArmed := rfl
@[simp] theorem State.setReg8_activity (s : State) (r : Reg8) (v : BitVec 8) : (s.setReg8 r v).activity = s.activity := rfl
@[simp] theorem State.setReg8_nmiPending (s : State) (r : Reg8) (v : BitVec 8) : (s.setReg8 r v).nmiPending = s.nmiPending := rfl
@[simp] theorem State.setReg8_mem (s : State) (r : Reg8) (v : BitVec 8) : (s.setReg8 r v).mem = s.mem := rfl
@[simp] theorem State.setReg8_smmMem (s : State) (r : Reg8) (v : BitVec 8) : (s.setReg8 r v).smmMem = s.smmMem := rfl
@[simp] theorem State.setReg8_env (s : State) (r : Reg8) (v : BitVec 8) : (s.setReg8 r v).env = s.env := rfl
@[simp] theorem State.setReg8_events (s : State) (r : Reg8) (v : BitVec 8) : (s.setReg8 r v).events = s.events := rfl
@[simp] theorem State.setReg8_accesses (s : State) (r : Reg8) (v : BitVec 8) : (s.setReg8 r v).accesses = s.accesses := rfl
@[simp] theorem State.setReg8_ioCycles (s : State) (r : Reg8) (v : BitVec 8) : (s.setReg8 r v).ioCycles = s.ioCycles := rfl
@[simp] theorem State.setReg8_draws (s : State) (r : Reg8) (v : BitVec 8) : (s.setReg8 r v).draws = s.draws := rfl

/-! ### setPc -/

@[simp] theorem State.setPc_gpr (s : State) (v : BitVec 32) : (s.setPc v).gpr = s.gpr := rfl
@[simp] theorem State.setPc_seg (s : State) (v : BitVec 32) : (s.setPc v).seg = s.seg := rfl
@[simp] theorem State.setPc_pc (s : State) (v : BitVec 32) : (s.setPc v).pc = v := rfl
@[simp] theorem State.setPc_eflags (s : State) (v : BitVec 32) : (s.setPc v).eflags = s.eflags := rfl
@[simp] theorem State.setPc_cr0 (s : State) (v : BitVec 32) : (s.setPc v).cr0 = s.cr0 := rfl
@[simp] theorem State.setPc_cr3 (s : State) (v : BitVec 32) : (s.setPc v).cr3 = s.cr3 := rfl
@[simp] theorem State.setPc_dr (s : State) (v : BitVec 32) : (s.setPc v).dr = s.dr := rfl
@[simp] theorem State.setPc_dr6 (s : State) (v : BitVec 32) : (s.setPc v).dr6 = s.dr6 := rfl
@[simp] theorem State.setPc_dr7 (s : State) (v : BitVec 32) : (s.setPc v).dr7 = s.dr7 := rfl
@[simp] theorem State.setPc_trSelector (s : State) (v : BitVec 32) : (s.setPc v).trSelector = s.trSelector := rfl
@[simp] theorem State.setPc_trHidden (s : State) (v : BitVec 32) : (s.setPc v).trHidden = s.trHidden := rfl
@[simp] theorem State.setPc_trLoaded (s : State) (v : BitVec 32) : (s.setPc v).trLoaded = s.trLoaded := rfl
@[simp] theorem State.setPc_cfg (s : State) (v : BitVec 32) : (s.setPc v).cfg = s.cfg := rfl
@[simp] theorem State.setPc_cfgIndex (s : State) (v : BitVec 32) : (s.setPc v).cfgIndex = s.cfgIndex := rfl
@[simp] theorem State.setPc_cfgArmed (s : State) (v : BitVec 32) : (s.setPc v).cfgArmed = s.cfgArmed := rfl
@[simp] theorem State.setPc_activity (s : State) (v : BitVec 32) : (s.setPc v).activity = s.activity := rfl
@[simp] theorem State.setPc_nmiPending (s : State) (v : BitVec 32) : (s.setPc v).nmiPending = s.nmiPending := rfl
@[simp] theorem State.setPc_mem (s : State) (v : BitVec 32) : (s.setPc v).mem = s.mem := rfl
@[simp] theorem State.setPc_smmMem (s : State) (v : BitVec 32) : (s.setPc v).smmMem = s.smmMem := rfl
@[simp] theorem State.setPc_env (s : State) (v : BitVec 32) : (s.setPc v).env = s.env := rfl
@[simp] theorem State.setPc_events (s : State) (v : BitVec 32) : (s.setPc v).events = s.events := rfl
@[simp] theorem State.setPc_accesses (s : State) (v : BitVec 32) : (s.setPc v).accesses = s.accesses := rfl
@[simp] theorem State.setPc_ioCycles (s : State) (v : BitVec 32) : (s.setPc v).ioCycles = s.ioCycles := rfl
@[simp] theorem State.setPc_draws (s : State) (v : BitVec 32) : (s.setPc v).draws = s.draws := rfl

/-! ### setCfg -/

@[simp] theorem State.setCfg_gpr (s : State) (cf : ConfigFile) : (s.setCfg cf).gpr = s.gpr := rfl
@[simp] theorem State.setCfg_seg (s : State) (cf : ConfigFile) : (s.setCfg cf).seg = s.seg := rfl
@[simp] theorem State.setCfg_pc (s : State) (cf : ConfigFile) : (s.setCfg cf).pc = s.pc := rfl
@[simp] theorem State.setCfg_eflags (s : State) (cf : ConfigFile) : (s.setCfg cf).eflags = s.eflags := rfl
@[simp] theorem State.setCfg_cr0 (s : State) (cf : ConfigFile) : (s.setCfg cf).cr0 = s.cr0 := rfl
@[simp] theorem State.setCfg_cr3 (s : State) (cf : ConfigFile) : (s.setCfg cf).cr3 = s.cr3 := rfl
@[simp] theorem State.setCfg_dr (s : State) (cf : ConfigFile) : (s.setCfg cf).dr = s.dr := rfl
@[simp] theorem State.setCfg_dr6 (s : State) (cf : ConfigFile) : (s.setCfg cf).dr6 = s.dr6 := rfl
@[simp] theorem State.setCfg_dr7 (s : State) (cf : ConfigFile) : (s.setCfg cf).dr7 = s.dr7 := rfl
@[simp] theorem State.setCfg_trSelector (s : State) (cf : ConfigFile) : (s.setCfg cf).trSelector = s.trSelector := rfl
@[simp] theorem State.setCfg_trHidden (s : State) (cf : ConfigFile) : (s.setCfg cf).trHidden = s.trHidden := rfl
@[simp] theorem State.setCfg_trLoaded (s : State) (cf : ConfigFile) : (s.setCfg cf).trLoaded = s.trLoaded := rfl
@[simp] theorem State.setCfg_cfg (s : State) (cf : ConfigFile) : (s.setCfg cf).cfg = cf := rfl
@[simp] theorem State.setCfg_cfgIndex (s : State) (cf : ConfigFile) : (s.setCfg cf).cfgIndex = s.cfgIndex := rfl
@[simp] theorem State.setCfg_cfgArmed (s : State) (cf : ConfigFile) : (s.setCfg cf).cfgArmed = s.cfgArmed := rfl
@[simp] theorem State.setCfg_activity (s : State) (cf : ConfigFile) : (s.setCfg cf).activity = s.activity := rfl
@[simp] theorem State.setCfg_nmiPending (s : State) (cf : ConfigFile) : (s.setCfg cf).nmiPending = s.nmiPending := rfl
@[simp] theorem State.setCfg_mem (s : State) (cf : ConfigFile) : (s.setCfg cf).mem = s.mem := rfl
@[simp] theorem State.setCfg_smmMem (s : State) (cf : ConfigFile) : (s.setCfg cf).smmMem = s.smmMem := rfl
@[simp] theorem State.setCfg_env (s : State) (cf : ConfigFile) : (s.setCfg cf).env = s.env := rfl
@[simp] theorem State.setCfg_events (s : State) (cf : ConfigFile) : (s.setCfg cf).events = s.events := rfl
@[simp] theorem State.setCfg_accesses (s : State) (cf : ConfigFile) : (s.setCfg cf).accesses = s.accesses := rfl
@[simp] theorem State.setCfg_ioCycles (s : State) (cf : ConfigFile) : (s.setCfg cf).ioCycles = s.ioCycles := rfl
@[simp] theorem State.setCfg_draws (s : State) (cf : ConfigFile) : (s.setCfg cf).draws = s.draws := rfl

/-! ### select -/

@[simp] theorem State.select_gpr (s : State) (v : BitVec 8) : (s.select v).gpr = s.gpr := rfl
@[simp] theorem State.select_seg (s : State) (v : BitVec 8) : (s.select v).seg = s.seg := rfl
@[simp] theorem State.select_pc (s : State) (v : BitVec 8) : (s.select v).pc = s.pc := rfl
@[simp] theorem State.select_eflags (s : State) (v : BitVec 8) : (s.select v).eflags = s.eflags := rfl
@[simp] theorem State.select_cr0 (s : State) (v : BitVec 8) : (s.select v).cr0 = s.cr0 := rfl
@[simp] theorem State.select_cr3 (s : State) (v : BitVec 8) : (s.select v).cr3 = s.cr3 := rfl
@[simp] theorem State.select_dr (s : State) (v : BitVec 8) : (s.select v).dr = s.dr := rfl
@[simp] theorem State.select_dr6 (s : State) (v : BitVec 8) : (s.select v).dr6 = s.dr6 := rfl
@[simp] theorem State.select_dr7 (s : State) (v : BitVec 8) : (s.select v).dr7 = s.dr7 := rfl
@[simp] theorem State.select_trSelector (s : State) (v : BitVec 8) : (s.select v).trSelector = s.trSelector := rfl
@[simp] theorem State.select_trHidden (s : State) (v : BitVec 8) : (s.select v).trHidden = s.trHidden := rfl
@[simp] theorem State.select_trLoaded (s : State) (v : BitVec 8) : (s.select v).trLoaded = s.trLoaded := rfl
@[simp] theorem State.select_cfg (s : State) (v : BitVec 8) : (s.select v).cfg = s.cfg := rfl
@[simp] theorem State.select_cfgIndex (s : State) (v : BitVec 8) : (s.select v).cfgIndex = v := rfl
@[simp] theorem State.select_cfgArmed (s : State) (v : BitVec 8) : (s.select v).cfgArmed = true := rfl
@[simp] theorem State.select_activity (s : State) (v : BitVec 8) : (s.select v).activity = s.activity := rfl
@[simp] theorem State.select_nmiPending (s : State) (v : BitVec 8) : (s.select v).nmiPending = s.nmiPending := rfl
@[simp] theorem State.select_mem (s : State) (v : BitVec 8) : (s.select v).mem = s.mem := rfl
@[simp] theorem State.select_smmMem (s : State) (v : BitVec 8) : (s.select v).smmMem = s.smmMem := rfl
@[simp] theorem State.select_env (s : State) (v : BitVec 8) : (s.select v).env = s.env := rfl
@[simp] theorem State.select_events (s : State) (v : BitVec 8) : (s.select v).events = s.events := rfl
@[simp] theorem State.select_accesses (s : State) (v : BitVec 8) : (s.select v).accesses = s.accesses := rfl
@[simp] theorem State.select_ioCycles (s : State) (v : BitVec 8) : (s.select v).ioCycles = s.ioCycles := rfl
@[simp] theorem State.select_draws (s : State) (v : BitVec 8) : (s.select v).draws = s.draws := rfl

/-! ### disarm -/

@[simp] theorem State.disarm_gpr (s : State) : s.disarm.gpr = s.gpr := rfl
@[simp] theorem State.disarm_seg (s : State) : s.disarm.seg = s.seg := rfl
@[simp] theorem State.disarm_pc (s : State) : s.disarm.pc = s.pc := rfl
@[simp] theorem State.disarm_eflags (s : State) : s.disarm.eflags = s.eflags := rfl
@[simp] theorem State.disarm_cr0 (s : State) : s.disarm.cr0 = s.cr0 := rfl
@[simp] theorem State.disarm_cr3 (s : State) : s.disarm.cr3 = s.cr3 := rfl
@[simp] theorem State.disarm_dr (s : State) : s.disarm.dr = s.dr := rfl
@[simp] theorem State.disarm_dr6 (s : State) : s.disarm.dr6 = s.dr6 := rfl
@[simp] theorem State.disarm_dr7 (s : State) : s.disarm.dr7 = s.dr7 := rfl
@[simp] theorem State.disarm_trSelector (s : State) : s.disarm.trSelector = s.trSelector := rfl
@[simp] theorem State.disarm_trHidden (s : State) : s.disarm.trHidden = s.trHidden := rfl
@[simp] theorem State.disarm_trLoaded (s : State) : s.disarm.trLoaded = s.trLoaded := rfl
@[simp] theorem State.disarm_cfg (s : State) : s.disarm.cfg = s.cfg := rfl
@[simp] theorem State.disarm_cfgIndex (s : State) : s.disarm.cfgIndex = s.cfgIndex := rfl
@[simp] theorem State.disarm_cfgArmed (s : State) : s.disarm.cfgArmed = false := rfl
@[simp] theorem State.disarm_activity (s : State) : s.disarm.activity = s.activity := rfl
@[simp] theorem State.disarm_nmiPending (s : State) : s.disarm.nmiPending = s.nmiPending := rfl
@[simp] theorem State.disarm_mem (s : State) : s.disarm.mem = s.mem := rfl
@[simp] theorem State.disarm_smmMem (s : State) : s.disarm.smmMem = s.smmMem := rfl
@[simp] theorem State.disarm_env (s : State) : s.disarm.env = s.env := rfl
@[simp] theorem State.disarm_events (s : State) : s.disarm.events = s.events := rfl
@[simp] theorem State.disarm_accesses (s : State) : s.disarm.accesses = s.accesses := rfl
@[simp] theorem State.disarm_ioCycles (s : State) : s.disarm.ioCycles = s.ioCycles := rfl
@[simp] theorem State.disarm_draws (s : State) : s.disarm.draws = s.draws := rfl

/-! ### setDr -/

@[simp] theorem State.setDr_gpr (s : State) (i : Fin 4) (v : BitVec 32) : (s.setDr i v).gpr = s.gpr := rfl
@[simp] theorem State.setDr_seg (s : State) (i : Fin 4) (v : BitVec 32) : (s.setDr i v).seg = s.seg := rfl
@[simp] theorem State.setDr_pc (s : State) (i : Fin 4) (v : BitVec 32) : (s.setDr i v).pc = s.pc := rfl
@[simp] theorem State.setDr_eflags (s : State) (i : Fin 4) (v : BitVec 32) : (s.setDr i v).eflags = s.eflags := rfl
@[simp] theorem State.setDr_cr0 (s : State) (i : Fin 4) (v : BitVec 32) : (s.setDr i v).cr0 = s.cr0 := rfl
@[simp] theorem State.setDr_cr3 (s : State) (i : Fin 4) (v : BitVec 32) : (s.setDr i v).cr3 = s.cr3 := rfl
@[simp] theorem State.setDr_dr (s : State) (i : Fin 4) (v : BitVec 32) : (s.setDr i v).dr = s.dr.set i v := rfl
@[simp] theorem State.setDr_dr6 (s : State) (i : Fin 4) (v : BitVec 32) : (s.setDr i v).dr6 = s.dr6 := rfl
@[simp] theorem State.setDr_dr7 (s : State) (i : Fin 4) (v : BitVec 32) : (s.setDr i v).dr7 = s.dr7 := rfl
@[simp] theorem State.setDr_trSelector (s : State) (i : Fin 4) (v : BitVec 32) : (s.setDr i v).trSelector = s.trSelector := rfl
@[simp] theorem State.setDr_trHidden (s : State) (i : Fin 4) (v : BitVec 32) : (s.setDr i v).trHidden = s.trHidden := rfl
@[simp] theorem State.setDr_trLoaded (s : State) (i : Fin 4) (v : BitVec 32) : (s.setDr i v).trLoaded = s.trLoaded := rfl
@[simp] theorem State.setDr_cfg (s : State) (i : Fin 4) (v : BitVec 32) : (s.setDr i v).cfg = s.cfg := rfl
@[simp] theorem State.setDr_cfgIndex (s : State) (i : Fin 4) (v : BitVec 32) : (s.setDr i v).cfgIndex = s.cfgIndex := rfl
@[simp] theorem State.setDr_cfgArmed (s : State) (i : Fin 4) (v : BitVec 32) : (s.setDr i v).cfgArmed = s.cfgArmed := rfl
@[simp] theorem State.setDr_activity (s : State) (i : Fin 4) (v : BitVec 32) : (s.setDr i v).activity = s.activity := rfl
@[simp] theorem State.setDr_nmiPending (s : State) (i : Fin 4) (v : BitVec 32) : (s.setDr i v).nmiPending = s.nmiPending := rfl
@[simp] theorem State.setDr_mem (s : State) (i : Fin 4) (v : BitVec 32) : (s.setDr i v).mem = s.mem := rfl
@[simp] theorem State.setDr_smmMem (s : State) (i : Fin 4) (v : BitVec 32) : (s.setDr i v).smmMem = s.smmMem := rfl
@[simp] theorem State.setDr_env (s : State) (i : Fin 4) (v : BitVec 32) : (s.setDr i v).env = s.env := rfl
@[simp] theorem State.setDr_events (s : State) (i : Fin 4) (v : BitVec 32) : (s.setDr i v).events = s.events := rfl
@[simp] theorem State.setDr_accesses (s : State) (i : Fin 4) (v : BitVec 32) : (s.setDr i v).accesses = s.accesses := rfl
@[simp] theorem State.setDr_ioCycles (s : State) (i : Fin 4) (v : BitVec 32) : (s.setDr i v).ioCycles = s.ioCycles := rfl
@[simp] theorem State.setDr_draws (s : State) (i : Fin 4) (v : BitVec 32) : (s.setDr i v).draws = s.draws := rfl

/-! ### setDr6 -/

@[simp] theorem State.setDr6_gpr (s : State) (v : BitVec 32) : (s.setDr6 v).gpr = s.gpr := rfl
@[simp] theorem State.setDr6_seg (s : State) (v : BitVec 32) : (s.setDr6 v).seg = s.seg := rfl
@[simp] theorem State.setDr6_pc (s : State) (v : BitVec 32) : (s.setDr6 v).pc = s.pc := rfl
@[simp] theorem State.setDr6_eflags (s : State) (v : BitVec 32) : (s.setDr6 v).eflags = s.eflags := rfl
@[simp] theorem State.setDr6_cr0 (s : State) (v : BitVec 32) : (s.setDr6 v).cr0 = s.cr0 := rfl
@[simp] theorem State.setDr6_cr3 (s : State) (v : BitVec 32) : (s.setDr6 v).cr3 = s.cr3 := rfl
@[simp] theorem State.setDr6_dr (s : State) (v : BitVec 32) : (s.setDr6 v).dr = s.dr := rfl
@[simp] theorem State.setDr6_dr6 (s : State) (v : BitVec 32) : (s.setDr6 v).dr6 = v := rfl
@[simp] theorem State.setDr6_dr7 (s : State) (v : BitVec 32) : (s.setDr6 v).dr7 = s.dr7 := rfl
@[simp] theorem State.setDr6_trSelector (s : State) (v : BitVec 32) : (s.setDr6 v).trSelector = s.trSelector := rfl
@[simp] theorem State.setDr6_trHidden (s : State) (v : BitVec 32) : (s.setDr6 v).trHidden = s.trHidden := rfl
@[simp] theorem State.setDr6_trLoaded (s : State) (v : BitVec 32) : (s.setDr6 v).trLoaded = s.trLoaded := rfl
@[simp] theorem State.setDr6_cfg (s : State) (v : BitVec 32) : (s.setDr6 v).cfg = s.cfg := rfl
@[simp] theorem State.setDr6_cfgIndex (s : State) (v : BitVec 32) : (s.setDr6 v).cfgIndex = s.cfgIndex := rfl
@[simp] theorem State.setDr6_cfgArmed (s : State) (v : BitVec 32) : (s.setDr6 v).cfgArmed = s.cfgArmed := rfl
@[simp] theorem State.setDr6_activity (s : State) (v : BitVec 32) : (s.setDr6 v).activity = s.activity := rfl
@[simp] theorem State.setDr6_nmiPending (s : State) (v : BitVec 32) : (s.setDr6 v).nmiPending = s.nmiPending := rfl
@[simp] theorem State.setDr6_mem (s : State) (v : BitVec 32) : (s.setDr6 v).mem = s.mem := rfl
@[simp] theorem State.setDr6_smmMem (s : State) (v : BitVec 32) : (s.setDr6 v).smmMem = s.smmMem := rfl
@[simp] theorem State.setDr6_env (s : State) (v : BitVec 32) : (s.setDr6 v).env = s.env := rfl
@[simp] theorem State.setDr6_events (s : State) (v : BitVec 32) : (s.setDr6 v).events = s.events := rfl
@[simp] theorem State.setDr6_accesses (s : State) (v : BitVec 32) : (s.setDr6 v).accesses = s.accesses := rfl
@[simp] theorem State.setDr6_ioCycles (s : State) (v : BitVec 32) : (s.setDr6 v).ioCycles = s.ioCycles := rfl
@[simp] theorem State.setDr6_draws (s : State) (v : BitVec 32) : (s.setDr6 v).draws = s.draws := rfl

/-! ### setDr7 -/

@[simp] theorem State.setDr7_gpr (s : State) (v : BitVec 32) : (s.setDr7 v).gpr = s.gpr := rfl
@[simp] theorem State.setDr7_seg (s : State) (v : BitVec 32) : (s.setDr7 v).seg = s.seg := rfl
@[simp] theorem State.setDr7_pc (s : State) (v : BitVec 32) : (s.setDr7 v).pc = s.pc := rfl
@[simp] theorem State.setDr7_eflags (s : State) (v : BitVec 32) : (s.setDr7 v).eflags = s.eflags := rfl
@[simp] theorem State.setDr7_cr0 (s : State) (v : BitVec 32) : (s.setDr7 v).cr0 = s.cr0 := rfl
@[simp] theorem State.setDr7_cr3 (s : State) (v : BitVec 32) : (s.setDr7 v).cr3 = s.cr3 := rfl
@[simp] theorem State.setDr7_dr (s : State) (v : BitVec 32) : (s.setDr7 v).dr = s.dr := rfl
@[simp] theorem State.setDr7_dr6 (s : State) (v : BitVec 32) : (s.setDr7 v).dr6 = s.dr6 := rfl
@[simp] theorem State.setDr7_dr7 (s : State) (v : BitVec 32) : (s.setDr7 v).dr7 = v := rfl
@[simp] theorem State.setDr7_trSelector (s : State) (v : BitVec 32) : (s.setDr7 v).trSelector = s.trSelector := rfl
@[simp] theorem State.setDr7_trHidden (s : State) (v : BitVec 32) : (s.setDr7 v).trHidden = s.trHidden := rfl
@[simp] theorem State.setDr7_trLoaded (s : State) (v : BitVec 32) : (s.setDr7 v).trLoaded = s.trLoaded := rfl
@[simp] theorem State.setDr7_cfg (s : State) (v : BitVec 32) : (s.setDr7 v).cfg = s.cfg := rfl
@[simp] theorem State.setDr7_cfgIndex (s : State) (v : BitVec 32) : (s.setDr7 v).cfgIndex = s.cfgIndex := rfl
@[simp] theorem State.setDr7_cfgArmed (s : State) (v : BitVec 32) : (s.setDr7 v).cfgArmed = s.cfgArmed := rfl
@[simp] theorem State.setDr7_activity (s : State) (v : BitVec 32) : (s.setDr7 v).activity = s.activity := rfl
@[simp] theorem State.setDr7_nmiPending (s : State) (v : BitVec 32) : (s.setDr7 v).nmiPending = s.nmiPending := rfl
@[simp] theorem State.setDr7_mem (s : State) (v : BitVec 32) : (s.setDr7 v).mem = s.mem := rfl
@[simp] theorem State.setDr7_smmMem (s : State) (v : BitVec 32) : (s.setDr7 v).smmMem = s.smmMem := rfl
@[simp] theorem State.setDr7_env (s : State) (v : BitVec 32) : (s.setDr7 v).env = s.env := rfl
@[simp] theorem State.setDr7_events (s : State) (v : BitVec 32) : (s.setDr7 v).events = s.events := rfl
@[simp] theorem State.setDr7_accesses (s : State) (v : BitVec 32) : (s.setDr7 v).accesses = s.accesses := rfl
@[simp] theorem State.setDr7_ioCycles (s : State) (v : BitVec 32) : (s.setDr7 v).ioCycles = s.ioCycles := rfl
@[simp] theorem State.setDr7_draws (s : State) (v : BitVec 32) : (s.setDr7 v).draws = s.draws := rfl

/-! ### loadTr -/

@[simp] theorem State.loadTr_gpr (s : State) (sel : BitVec 16) (desc : BitVec 64) : (s.loadTr sel desc).gpr = s.gpr := rfl
@[simp] theorem State.loadTr_seg (s : State) (sel : BitVec 16) (desc : BitVec 64) : (s.loadTr sel desc).seg = s.seg := rfl
@[simp] theorem State.loadTr_pc (s : State) (sel : BitVec 16) (desc : BitVec 64) : (s.loadTr sel desc).pc = s.pc := rfl
@[simp] theorem State.loadTr_eflags (s : State) (sel : BitVec 16) (desc : BitVec 64) : (s.loadTr sel desc).eflags = s.eflags := rfl
@[simp] theorem State.loadTr_cr0 (s : State) (sel : BitVec 16) (desc : BitVec 64) : (s.loadTr sel desc).cr0 = s.cr0 := rfl
@[simp] theorem State.loadTr_cr3 (s : State) (sel : BitVec 16) (desc : BitVec 64) : (s.loadTr sel desc).cr3 = s.cr3 := rfl
@[simp] theorem State.loadTr_dr (s : State) (sel : BitVec 16) (desc : BitVec 64) : (s.loadTr sel desc).dr = s.dr := rfl
@[simp] theorem State.loadTr_dr6 (s : State) (sel : BitVec 16) (desc : BitVec 64) : (s.loadTr sel desc).dr6 = s.dr6 := rfl
@[simp] theorem State.loadTr_dr7 (s : State) (sel : BitVec 16) (desc : BitVec 64) : (s.loadTr sel desc).dr7 = s.dr7 := rfl
@[simp] theorem State.loadTr_trSelector (s : State) (sel : BitVec 16) (desc : BitVec 64) : (s.loadTr sel desc).trSelector = sel := rfl
@[simp] theorem State.loadTr_trHidden (s : State) (sel : BitVec 16) (desc : BitVec 64) : (s.loadTr sel desc).trHidden = desc := rfl
@[simp] theorem State.loadTr_trLoaded (s : State) (sel : BitVec 16) (desc : BitVec 64) : (s.loadTr sel desc).trLoaded = true := rfl
@[simp] theorem State.loadTr_cfg (s : State) (sel : BitVec 16) (desc : BitVec 64) : (s.loadTr sel desc).cfg = s.cfg := rfl
@[simp] theorem State.loadTr_cfgIndex (s : State) (sel : BitVec 16) (desc : BitVec 64) : (s.loadTr sel desc).cfgIndex = s.cfgIndex := rfl
@[simp] theorem State.loadTr_cfgArmed (s : State) (sel : BitVec 16) (desc : BitVec 64) : (s.loadTr sel desc).cfgArmed = s.cfgArmed := rfl
@[simp] theorem State.loadTr_activity (s : State) (sel : BitVec 16) (desc : BitVec 64) : (s.loadTr sel desc).activity = s.activity := rfl
@[simp] theorem State.loadTr_nmiPending (s : State) (sel : BitVec 16) (desc : BitVec 64) : (s.loadTr sel desc).nmiPending = s.nmiPending := rfl
@[simp] theorem State.loadTr_mem (s : State) (sel : BitVec 16) (desc : BitVec 64) : (s.loadTr sel desc).mem = s.mem := rfl
@[simp] theorem State.loadTr_smmMem (s : State) (sel : BitVec 16) (desc : BitVec 64) : (s.loadTr sel desc).smmMem = s.smmMem := rfl
@[simp] theorem State.loadTr_env (s : State) (sel : BitVec 16) (desc : BitVec 64) : (s.loadTr sel desc).env = s.env := rfl
@[simp] theorem State.loadTr_events (s : State) (sel : BitVec 16) (desc : BitVec 64) : (s.loadTr sel desc).events = s.events := rfl
@[simp] theorem State.loadTr_accesses (s : State) (sel : BitVec 16) (desc : BitVec 64) : (s.loadTr sel desc).accesses = s.accesses := rfl
@[simp] theorem State.loadTr_ioCycles (s : State) (sel : BitVec 16) (desc : BitVec 64) : (s.loadTr sel desc).ioCycles = s.ioCycles := rfl
@[simp] theorem State.loadTr_draws (s : State) (sel : BitVec 16) (desc : BitVec 64) : (s.loadTr sel desc).draws = s.draws := rfl

/-! ### setActivity -/

@[simp] theorem State.setActivity_gpr (s : State) (a : Activity) : (s.setActivity a).gpr = s.gpr := rfl
@[simp] theorem State.setActivity_seg (s : State) (a : Activity) : (s.setActivity a).seg = s.seg := rfl
@[simp] theorem State.setActivity_pc (s : State) (a : Activity) : (s.setActivity a).pc = s.pc := rfl
@[simp] theorem State.setActivity_eflags (s : State) (a : Activity) : (s.setActivity a).eflags = s.eflags := rfl
@[simp] theorem State.setActivity_cr0 (s : State) (a : Activity) : (s.setActivity a).cr0 = s.cr0 := rfl
@[simp] theorem State.setActivity_cr3 (s : State) (a : Activity) : (s.setActivity a).cr3 = s.cr3 := rfl
@[simp] theorem State.setActivity_dr (s : State) (a : Activity) : (s.setActivity a).dr = s.dr := rfl
@[simp] theorem State.setActivity_dr6 (s : State) (a : Activity) : (s.setActivity a).dr6 = s.dr6 := rfl
@[simp] theorem State.setActivity_dr7 (s : State) (a : Activity) : (s.setActivity a).dr7 = s.dr7 := rfl
@[simp] theorem State.setActivity_trSelector (s : State) (a : Activity) : (s.setActivity a).trSelector = s.trSelector := rfl
@[simp] theorem State.setActivity_trHidden (s : State) (a : Activity) : (s.setActivity a).trHidden = s.trHidden := rfl
@[simp] theorem State.setActivity_trLoaded (s : State) (a : Activity) : (s.setActivity a).trLoaded = s.trLoaded := rfl
@[simp] theorem State.setActivity_cfg (s : State) (a : Activity) : (s.setActivity a).cfg = s.cfg := rfl
@[simp] theorem State.setActivity_cfgIndex (s : State) (a : Activity) : (s.setActivity a).cfgIndex = s.cfgIndex := rfl
@[simp] theorem State.setActivity_cfgArmed (s : State) (a : Activity) : (s.setActivity a).cfgArmed = s.cfgArmed := rfl
@[simp] theorem State.setActivity_activity (s : State) (a : Activity) : (s.setActivity a).activity = a := rfl
@[simp] theorem State.setActivity_nmiPending (s : State) (a : Activity) : (s.setActivity a).nmiPending = s.nmiPending := rfl
@[simp] theorem State.setActivity_mem (s : State) (a : Activity) : (s.setActivity a).mem = s.mem := rfl
@[simp] theorem State.setActivity_smmMem (s : State) (a : Activity) : (s.setActivity a).smmMem = s.smmMem := rfl
@[simp] theorem State.setActivity_env (s : State) (a : Activity) : (s.setActivity a).env = s.env := rfl
@[simp] theorem State.setActivity_events (s : State) (a : Activity) : (s.setActivity a).events = s.events := rfl
@[simp] theorem State.setActivity_accesses (s : State) (a : Activity) : (s.setActivity a).accesses = s.accesses := rfl
@[simp] theorem State.setActivity_ioCycles (s : State) (a : Activity) : (s.setActivity a).ioCycles = s.ioCycles := rfl
@[simp] theorem State.setActivity_draws (s : State) (a : Activity) : (s.setActivity a).draws = s.draws := rfl

/-! ### setEnv -/

@[simp] theorem State.setEnv_gpr (s : State) (e : Environment) : (s.setEnv e).gpr = s.gpr := rfl
@[simp] theorem State.setEnv_seg (s : State) (e : Environment) : (s.setEnv e).seg = s.seg := rfl
@[simp] theorem State.setEnv_pc (s : State) (e : Environment) : (s.setEnv e).pc = s.pc := rfl
@[simp] theorem State.setEnv_eflags (s : State) (e : Environment) : (s.setEnv e).eflags = s.eflags := rfl
@[simp] theorem State.setEnv_cr0 (s : State) (e : Environment) : (s.setEnv e).cr0 = s.cr0 := rfl
@[simp] theorem State.setEnv_cr3 (s : State) (e : Environment) : (s.setEnv e).cr3 = s.cr3 := rfl
@[simp] theorem State.setEnv_dr (s : State) (e : Environment) : (s.setEnv e).dr = s.dr := rfl
@[simp] theorem State.setEnv_dr6 (s : State) (e : Environment) : (s.setEnv e).dr6 = s.dr6 := rfl
@[simp] theorem State.setEnv_dr7 (s : State) (e : Environment) : (s.setEnv e).dr7 = s.dr7 := rfl
@[simp] theorem State.setEnv_trSelector (s : State) (e : Environment) : (s.setEnv e).trSelector = s.trSelector := rfl
@[simp] theorem State.setEnv_trHidden (s : State) (e : Environment) : (s.setEnv e).trHidden = s.trHidden := rfl
@[simp] theorem State.setEnv_trLoaded (s : State) (e : Environment) : (s.setEnv e).trLoaded = s.trLoaded := rfl
@[simp] theorem State.setEnv_cfg (s : State) (e : Environment) : (s.setEnv e).cfg = s.cfg := rfl
@[simp] theorem State.setEnv_cfgIndex (s : State) (e : Environment) : (s.setEnv e).cfgIndex = s.cfgIndex := rfl
@[simp] theorem State.setEnv_cfgArmed (s : State) (e : Environment) : (s.setEnv e).cfgArmed = s.cfgArmed := rfl
@[simp] theorem State.setEnv_activity (s : State) (e : Environment) : (s.setEnv e).activity = s.activity := rfl
@[simp] theorem State.setEnv_nmiPending (s : State) (e : Environment) : (s.setEnv e).nmiPending = s.nmiPending := rfl
@[simp] theorem State.setEnv_mem (s : State) (e : Environment) : (s.setEnv e).mem = s.mem := rfl
@[simp] theorem State.setEnv_smmMem (s : State) (e : Environment) : (s.setEnv e).smmMem = s.smmMem := rfl
@[simp] theorem State.setEnv_env (s : State) (e : Environment) : (s.setEnv e).env = e := rfl
@[simp] theorem State.setEnv_events (s : State) (e : Environment) : (s.setEnv e).events = s.events := rfl
@[simp] theorem State.setEnv_accesses (s : State) (e : Environment) : (s.setEnv e).accesses = s.accesses := rfl
@[simp] theorem State.setEnv_ioCycles (s : State) (e : Environment) : (s.setEnv e).ioCycles = s.ioCycles := rfl
@[simp] theorem State.setEnv_draws (s : State) (e : Environment) : (s.setEnv e).draws = s.draws := rfl

/-! ### setEvents -/

@[simp] theorem State.setEvents_gpr (s : State) (es : List Event) : (s.setEvents es).gpr = s.gpr := rfl
@[simp] theorem State.setEvents_seg (s : State) (es : List Event) : (s.setEvents es).seg = s.seg := rfl
@[simp] theorem State.setEvents_pc (s : State) (es : List Event) : (s.setEvents es).pc = s.pc := rfl
@[simp] theorem State.setEvents_eflags (s : State) (es : List Event) : (s.setEvents es).eflags = s.eflags := rfl
@[simp] theorem State.setEvents_cr0 (s : State) (es : List Event) : (s.setEvents es).cr0 = s.cr0 := rfl
@[simp] theorem State.setEvents_cr3 (s : State) (es : List Event) : (s.setEvents es).cr3 = s.cr3 := rfl
@[simp] theorem State.setEvents_dr (s : State) (es : List Event) : (s.setEvents es).dr = s.dr := rfl
@[simp] theorem State.setEvents_dr6 (s : State) (es : List Event) : (s.setEvents es).dr6 = s.dr6 := rfl
@[simp] theorem State.setEvents_dr7 (s : State) (es : List Event) : (s.setEvents es).dr7 = s.dr7 := rfl
@[simp] theorem State.setEvents_trSelector (s : State) (es : List Event) : (s.setEvents es).trSelector = s.trSelector := rfl
@[simp] theorem State.setEvents_trHidden (s : State) (es : List Event) : (s.setEvents es).trHidden = s.trHidden := rfl
@[simp] theorem State.setEvents_trLoaded (s : State) (es : List Event) : (s.setEvents es).trLoaded = s.trLoaded := rfl
@[simp] theorem State.setEvents_cfg (s : State) (es : List Event) : (s.setEvents es).cfg = s.cfg := rfl
@[simp] theorem State.setEvents_cfgIndex (s : State) (es : List Event) : (s.setEvents es).cfgIndex = s.cfgIndex := rfl
@[simp] theorem State.setEvents_cfgArmed (s : State) (es : List Event) : (s.setEvents es).cfgArmed = s.cfgArmed := rfl
@[simp] theorem State.setEvents_activity (s : State) (es : List Event) : (s.setEvents es).activity = s.activity := rfl
@[simp] theorem State.setEvents_nmiPending (s : State) (es : List Event) : (s.setEvents es).nmiPending = s.nmiPending := rfl
@[simp] theorem State.setEvents_mem (s : State) (es : List Event) : (s.setEvents es).mem = s.mem := rfl
@[simp] theorem State.setEvents_smmMem (s : State) (es : List Event) : (s.setEvents es).smmMem = s.smmMem := rfl
@[simp] theorem State.setEvents_env (s : State) (es : List Event) : (s.setEvents es).env = s.env := rfl
@[simp] theorem State.setEvents_events (s : State) (es : List Event) : (s.setEvents es).events = es := rfl
@[simp] theorem State.setEvents_accesses (s : State) (es : List Event) : (s.setEvents es).accesses = s.accesses := rfl
@[simp] theorem State.setEvents_ioCycles (s : State) (es : List Event) : (s.setEvents es).ioCycles = s.ioCycles := rfl
@[simp] theorem State.setEvents_draws (s : State) (es : List Event) : (s.setEvents es).draws = s.draws := rfl

/-! ### setNmiPending -/

@[simp] theorem State.setNmiPending_gpr (s : State) (b : Bool) : (s.setNmiPending b).gpr = s.gpr := rfl
@[simp] theorem State.setNmiPending_seg (s : State) (b : Bool) : (s.setNmiPending b).seg = s.seg := rfl
@[simp] theorem State.setNmiPending_pc (s : State) (b : Bool) : (s.setNmiPending b).pc = s.pc := rfl
@[simp] theorem State.setNmiPending_eflags (s : State) (b : Bool) : (s.setNmiPending b).eflags = s.eflags := rfl
@[simp] theorem State.setNmiPending_cr0 (s : State) (b : Bool) : (s.setNmiPending b).cr0 = s.cr0 := rfl
@[simp] theorem State.setNmiPending_cr3 (s : State) (b : Bool) : (s.setNmiPending b).cr3 = s.cr3 := rfl
@[simp] theorem State.setNmiPending_dr (s : State) (b : Bool) : (s.setNmiPending b).dr = s.dr := rfl
@[simp] theorem State.setNmiPending_dr6 (s : State) (b : Bool) : (s.setNmiPending b).dr6 = s.dr6 := rfl
@[simp] theorem State.setNmiPending_dr7 (s : State) (b : Bool) : (s.setNmiPending b).dr7 = s.dr7 := rfl
@[simp] theorem State.setNmiPending_trSelector (s : State) (b : Bool) : (s.setNmiPending b).trSelector = s.trSelector := rfl
@[simp] theorem State.setNmiPending_trHidden (s : State) (b : Bool) : (s.setNmiPending b).trHidden = s.trHidden := rfl
@[simp] theorem State.setNmiPending_trLoaded (s : State) (b : Bool) : (s.setNmiPending b).trLoaded = s.trLoaded := rfl
@[simp] theorem State.setNmiPending_cfg (s : State) (b : Bool) : (s.setNmiPending b).cfg = s.cfg := rfl
@[simp] theorem State.setNmiPending_cfgIndex (s : State) (b : Bool) : (s.setNmiPending b).cfgIndex = s.cfgIndex := rfl
@[simp] theorem State.setNmiPending_cfgArmed (s : State) (b : Bool) : (s.setNmiPending b).cfgArmed = s.cfgArmed := rfl
@[simp] theorem State.setNmiPending_activity (s : State) (b : Bool) : (s.setNmiPending b).activity = s.activity := rfl
@[simp] theorem State.setNmiPending_nmiPending (s : State) (b : Bool) : (s.setNmiPending b).nmiPending = b := rfl
@[simp] theorem State.setNmiPending_mem (s : State) (b : Bool) : (s.setNmiPending b).mem = s.mem := rfl
@[simp] theorem State.setNmiPending_smmMem (s : State) (b : Bool) : (s.setNmiPending b).smmMem = s.smmMem := rfl
@[simp] theorem State.setNmiPending_env (s : State) (b : Bool) : (s.setNmiPending b).env = s.env := rfl
@[simp] theorem State.setNmiPending_events (s : State) (b : Bool) : (s.setNmiPending b).events = s.events := rfl
@[simp] theorem State.setNmiPending_accesses (s : State) (b : Bool) : (s.setNmiPending b).accesses = s.accesses := rfl
@[simp] theorem State.setNmiPending_ioCycles (s : State) (b : Bool) : (s.setNmiPending b).ioCycles = s.ioCycles := rfl
@[simp] theorem State.setNmiPending_draws (s : State) (b : Bool) : (s.setNmiPending b).draws = s.draws := rfl

/-! ### clearAccesses -/

@[simp] theorem State.clearAccesses_gpr (s : State) : s.clearAccesses.gpr = s.gpr := rfl
@[simp] theorem State.clearAccesses_seg (s : State) : s.clearAccesses.seg = s.seg := rfl
@[simp] theorem State.clearAccesses_pc (s : State) : s.clearAccesses.pc = s.pc := rfl
@[simp] theorem State.clearAccesses_eflags (s : State) : s.clearAccesses.eflags = s.eflags := rfl
@[simp] theorem State.clearAccesses_cr0 (s : State) : s.clearAccesses.cr0 = s.cr0 := rfl
@[simp] theorem State.clearAccesses_cr3 (s : State) : s.clearAccesses.cr3 = s.cr3 := rfl
@[simp] theorem State.clearAccesses_dr (s : State) : s.clearAccesses.dr = s.dr := rfl
@[simp] theorem State.clearAccesses_dr6 (s : State) : s.clearAccesses.dr6 = s.dr6 := rfl
@[simp] theorem State.clearAccesses_dr7 (s : State) : s.clearAccesses.dr7 = s.dr7 := rfl
@[simp] theorem State.clearAccesses_trSelector (s : State) : s.clearAccesses.trSelector = s.trSelector := rfl
@[simp] theorem State.clearAccesses_trHidden (s : State) : s.clearAccesses.trHidden = s.trHidden := rfl
@[simp] theorem State.clearAccesses_trLoaded (s : State) : s.clearAccesses.trLoaded = s.trLoaded := rfl
@[simp] theorem State.clearAccesses_cfg (s : State) : s.clearAccesses.cfg = s.cfg := rfl
@[simp] theorem State.clearAccesses_cfgIndex (s : State) : s.clearAccesses.cfgIndex = s.cfgIndex := rfl
@[simp] theorem State.clearAccesses_cfgArmed (s : State) : s.clearAccesses.cfgArmed = s.cfgArmed := rfl
@[simp] theorem State.clearAccesses_activity (s : State) : s.clearAccesses.activity = s.activity := rfl
@[simp] theorem State.clearAccesses_nmiPending (s : State) : s.clearAccesses.nmiPending = s.nmiPending := rfl
@[simp] theorem State.clearAccesses_mem (s : State) : s.clearAccesses.mem = s.mem := rfl
@[simp] theorem State.clearAccesses_smmMem (s : State) : s.clearAccesses.smmMem = s.smmMem := rfl
@[simp] theorem State.clearAccesses_env (s : State) : s.clearAccesses.env = s.env := rfl
@[simp] theorem State.clearAccesses_events (s : State) : s.clearAccesses.events = s.events := rfl
@[simp] theorem State.clearAccesses_accesses (s : State) : s.clearAccesses.accesses = [] := rfl
@[simp] theorem State.clearAccesses_ioCycles (s : State) : s.clearAccesses.ioCycles = s.ioCycles := rfl
@[simp] theorem State.clearAccesses_draws (s : State) : s.clearAccesses.draws = s.draws := rfl

/-! ### record -/

@[simp] theorem State.record_gpr (s : State) (a : Access) : (s.record a).gpr = s.gpr := rfl
@[simp] theorem State.record_seg (s : State) (a : Access) : (s.record a).seg = s.seg := rfl
@[simp] theorem State.record_pc (s : State) (a : Access) : (s.record a).pc = s.pc := rfl
@[simp] theorem State.record_eflags (s : State) (a : Access) : (s.record a).eflags = s.eflags := rfl
@[simp] theorem State.record_cr0 (s : State) (a : Access) : (s.record a).cr0 = s.cr0 := rfl
@[simp] theorem State.record_cr3 (s : State) (a : Access) : (s.record a).cr3 = s.cr3 := rfl
@[simp] theorem State.record_dr (s : State) (a : Access) : (s.record a).dr = s.dr := rfl
@[simp] theorem State.record_dr6 (s : State) (a : Access) : (s.record a).dr6 = s.dr6 := rfl
@[simp] theorem State.record_dr7 (s : State) (a : Access) : (s.record a).dr7 = s.dr7 := rfl
@[simp] theorem State.record_trSelector (s : State) (a : Access) : (s.record a).trSelector = s.trSelector := rfl
@[simp] theorem State.record_trHidden (s : State) (a : Access) : (s.record a).trHidden = s.trHidden := rfl
@[simp] theorem State.record_trLoaded (s : State) (a : Access) : (s.record a).trLoaded = s.trLoaded := rfl
@[simp] theorem State.record_cfg (s : State) (a : Access) : (s.record a).cfg = s.cfg := rfl
@[simp] theorem State.record_cfgIndex (s : State) (a : Access) : (s.record a).cfgIndex = s.cfgIndex := rfl
@[simp] theorem State.record_cfgArmed (s : State) (a : Access) : (s.record a).cfgArmed = s.cfgArmed := rfl
@[simp] theorem State.record_activity (s : State) (a : Access) : (s.record a).activity = s.activity := rfl
@[simp] theorem State.record_nmiPending (s : State) (a : Access) : (s.record a).nmiPending = s.nmiPending := rfl
@[simp] theorem State.record_mem (s : State) (a : Access) : (s.record a).mem = s.mem := rfl
@[simp] theorem State.record_smmMem (s : State) (a : Access) : (s.record a).smmMem = s.smmMem := rfl
@[simp] theorem State.record_env (s : State) (a : Access) : (s.record a).env = s.env := rfl
@[simp] theorem State.record_events (s : State) (a : Access) : (s.record a).events = s.events := rfl
@[simp] theorem State.record_accesses (s : State) (a : Access) : (s.record a).accesses = a :: s.accesses := rfl
@[simp] theorem State.record_ioCycles (s : State) (a : Access) : (s.record a).ioCycles = s.ioCycles := rfl
@[simp] theorem State.record_draws (s : State) (a : Access) : (s.record a).draws = s.draws := rfl

/-! ### emit -/

@[simp] theorem State.emit_gpr (s : State) (x : IoCycle) : (s.emit x).gpr = s.gpr := rfl
@[simp] theorem State.emit_seg (s : State) (x : IoCycle) : (s.emit x).seg = s.seg := rfl
@[simp] theorem State.emit_pc (s : State) (x : IoCycle) : (s.emit x).pc = s.pc := rfl
@[simp] theorem State.emit_eflags (s : State) (x : IoCycle) : (s.emit x).eflags = s.eflags := rfl
@[simp] theorem State.emit_cr0 (s : State) (x : IoCycle) : (s.emit x).cr0 = s.cr0 := rfl
@[simp] theorem State.emit_cr3 (s : State) (x : IoCycle) : (s.emit x).cr3 = s.cr3 := rfl
@[simp] theorem State.emit_dr (s : State) (x : IoCycle) : (s.emit x).dr = s.dr := rfl
@[simp] theorem State.emit_dr6 (s : State) (x : IoCycle) : (s.emit x).dr6 = s.dr6 := rfl
@[simp] theorem State.emit_dr7 (s : State) (x : IoCycle) : (s.emit x).dr7 = s.dr7 := rfl
@[simp] theorem State.emit_trSelector (s : State) (x : IoCycle) : (s.emit x).trSelector = s.trSelector := rfl
@[simp] theorem State.emit_trHidden (s : State) (x : IoCycle) : (s.emit x).trHidden = s.trHidden := rfl
@[simp] theorem State.emit_trLoaded (s : State) (x : IoCycle) : (s.emit x).trLoaded = s.trLoaded := rfl
@[simp] theorem State.emit_cfg (s : State) (x : IoCycle) : (s.emit x).cfg = s.cfg := rfl
@[simp] theorem State.emit_cfgIndex (s : State) (x : IoCycle) : (s.emit x).cfgIndex = s.cfgIndex := rfl
@[simp] theorem State.emit_cfgArmed (s : State) (x : IoCycle) : (s.emit x).cfgArmed = s.cfgArmed := rfl
@[simp] theorem State.emit_activity (s : State) (x : IoCycle) : (s.emit x).activity = s.activity := rfl
@[simp] theorem State.emit_nmiPending (s : State) (x : IoCycle) : (s.emit x).nmiPending = s.nmiPending := rfl
@[simp] theorem State.emit_mem (s : State) (x : IoCycle) : (s.emit x).mem = s.mem := rfl
@[simp] theorem State.emit_smmMem (s : State) (x : IoCycle) : (s.emit x).smmMem = s.smmMem := rfl
@[simp] theorem State.emit_env (s : State) (x : IoCycle) : (s.emit x).env = s.env := rfl
@[simp] theorem State.emit_events (s : State) (x : IoCycle) : (s.emit x).events = s.events := rfl
@[simp] theorem State.emit_accesses (s : State) (x : IoCycle) : (s.emit x).accesses = s.accesses := rfl
@[simp] theorem State.emit_ioCycles (s : State) (x : IoCycle) : (s.emit x).ioCycles = x :: s.ioCycles := rfl
@[simp] theorem State.emit_draws (s : State) (x : IoCycle) : (s.emit x).draws = s.draws := rfl

/-! ### emitIf -/

@[simp] theorem State.emitIf_gpr (s : State) (b : Bool) (x : IoCycle) : (s.emitIf b x).gpr = s.gpr := rfl
@[simp] theorem State.emitIf_seg (s : State) (b : Bool) (x : IoCycle) : (s.emitIf b x).seg = s.seg := rfl
@[simp] theorem State.emitIf_pc (s : State) (b : Bool) (x : IoCycle) : (s.emitIf b x).pc = s.pc := rfl
@[simp] theorem State.emitIf_eflags (s : State) (b : Bool) (x : IoCycle) : (s.emitIf b x).eflags = s.eflags := rfl
@[simp] theorem State.emitIf_cr0 (s : State) (b : Bool) (x : IoCycle) : (s.emitIf b x).cr0 = s.cr0 := rfl
@[simp] theorem State.emitIf_cr3 (s : State) (b : Bool) (x : IoCycle) : (s.emitIf b x).cr3 = s.cr3 := rfl
@[simp] theorem State.emitIf_dr (s : State) (b : Bool) (x : IoCycle) : (s.emitIf b x).dr = s.dr := rfl
@[simp] theorem State.emitIf_dr6 (s : State) (b : Bool) (x : IoCycle) : (s.emitIf b x).dr6 = s.dr6 := rfl
@[simp] theorem State.emitIf_dr7 (s : State) (b : Bool) (x : IoCycle) : (s.emitIf b x).dr7 = s.dr7 := rfl
@[simp] theorem State.emitIf_trSelector (s : State) (b : Bool) (x : IoCycle) : (s.emitIf b x).trSelector = s.trSelector := rfl
@[simp] theorem State.emitIf_trHidden (s : State) (b : Bool) (x : IoCycle) : (s.emitIf b x).trHidden = s.trHidden := rfl
@[simp] theorem State.emitIf_trLoaded (s : State) (b : Bool) (x : IoCycle) : (s.emitIf b x).trLoaded = s.trLoaded := rfl
@[simp] theorem State.emitIf_cfg (s : State) (b : Bool) (x : IoCycle) : (s.emitIf b x).cfg = s.cfg := rfl
@[simp] theorem State.emitIf_cfgIndex (s : State) (b : Bool) (x : IoCycle) : (s.emitIf b x).cfgIndex = s.cfgIndex := rfl
@[simp] theorem State.emitIf_cfgArmed (s : State) (b : Bool) (x : IoCycle) : (s.emitIf b x).cfgArmed = s.cfgArmed := rfl
@[simp] theorem State.emitIf_activity (s : State) (b : Bool) (x : IoCycle) : (s.emitIf b x).activity = s.activity := rfl
@[simp] theorem State.emitIf_nmiPending (s : State) (b : Bool) (x : IoCycle) : (s.emitIf b x).nmiPending = s.nmiPending := rfl
@[simp] theorem State.emitIf_mem (s : State) (b : Bool) (x : IoCycle) : (s.emitIf b x).mem = s.mem := rfl
@[simp] theorem State.emitIf_smmMem (s : State) (b : Bool) (x : IoCycle) : (s.emitIf b x).smmMem = s.smmMem := rfl
@[simp] theorem State.emitIf_env (s : State) (b : Bool) (x : IoCycle) : (s.emitIf b x).env = s.env := rfl
@[simp] theorem State.emitIf_events (s : State) (b : Bool) (x : IoCycle) : (s.emitIf b x).events = s.events := rfl
@[simp] theorem State.emitIf_accesses (s : State) (b : Bool) (x : IoCycle) : (s.emitIf b x).accesses = s.accesses := rfl
@[simp] theorem State.emitIf_ioCycles (s : State) (b : Bool) (x : IoCycle) : (s.emitIf b x).ioCycles = if b then x :: s.ioCycles else s.ioCycles := rfl
@[simp] theorem State.emitIf_draws (s : State) (b : Bool) (x : IoCycle) : (s.emitIf b x).draws = s.draws := rfl

/-! ### tick -/

@[simp] theorem State.tick_gpr (s : State) : s.tick.gpr = s.gpr := rfl
@[simp] theorem State.tick_seg (s : State) : s.tick.seg = s.seg := rfl
@[simp] theorem State.tick_pc (s : State) : s.tick.pc = s.pc := rfl
@[simp] theorem State.tick_eflags (s : State) : s.tick.eflags = s.eflags := rfl
@[simp] theorem State.tick_cr0 (s : State) : s.tick.cr0 = s.cr0 := rfl
@[simp] theorem State.tick_cr3 (s : State) : s.tick.cr3 = s.cr3 := rfl
@[simp] theorem State.tick_dr (s : State) : s.tick.dr = s.dr := rfl
@[simp] theorem State.tick_dr6 (s : State) : s.tick.dr6 = s.dr6 := rfl
@[simp] theorem State.tick_dr7 (s : State) : s.tick.dr7 = s.dr7 := rfl
@[simp] theorem State.tick_trSelector (s : State) : s.tick.trSelector = s.trSelector := rfl
@[simp] theorem State.tick_trHidden (s : State) : s.tick.trHidden = s.trHidden := rfl
@[simp] theorem State.tick_trLoaded (s : State) : s.tick.trLoaded = s.trLoaded := rfl
@[simp] theorem State.tick_cfg (s : State) : s.tick.cfg = s.cfg := rfl
@[simp] theorem State.tick_cfgIndex (s : State) : s.tick.cfgIndex = s.cfgIndex := rfl
@[simp] theorem State.tick_cfgArmed (s : State) : s.tick.cfgArmed = s.cfgArmed := rfl
@[simp] theorem State.tick_activity (s : State) : s.tick.activity = s.activity := rfl
@[simp] theorem State.tick_nmiPending (s : State) : s.tick.nmiPending = s.nmiPending := rfl
@[simp] theorem State.tick_mem (s : State) : s.tick.mem = s.mem := rfl
@[simp] theorem State.tick_smmMem (s : State) : s.tick.smmMem = s.smmMem := rfl
@[simp] theorem State.tick_env (s : State) : s.tick.env = s.env := rfl
@[simp] theorem State.tick_events (s : State) : s.tick.events = s.events := rfl
@[simp] theorem State.tick_accesses (s : State) : s.tick.accesses = s.accesses := rfl
@[simp] theorem State.tick_ioCycles (s : State) : s.tick.ioCycles = s.ioCycles := rfl
@[simp] theorem State.tick_draws (s : State) : s.tick.draws = s.draws + 1 := rfl

/-! ### storeByte, storeBytes, placeFrom: the byte stores only -/

@[simp] theorem State.storeByte_gpr (s : State) (a : Nat) (b : Byte) : (s.storeByte a b).gpr = s.gpr := by
  unfold State.storeByte; split <;> rfl
@[simp] theorem State.storeByte_seg (s : State) (a : Nat) (b : Byte) : (s.storeByte a b).seg = s.seg := by
  unfold State.storeByte; split <;> rfl
@[simp] theorem State.storeByte_pc (s : State) (a : Nat) (b : Byte) : (s.storeByte a b).pc = s.pc := by
  unfold State.storeByte; split <;> rfl
@[simp] theorem State.storeByte_eflags (s : State) (a : Nat) (b : Byte) : (s.storeByte a b).eflags = s.eflags := by
  unfold State.storeByte; split <;> rfl
@[simp] theorem State.storeByte_cr0 (s : State) (a : Nat) (b : Byte) : (s.storeByte a b).cr0 = s.cr0 := by
  unfold State.storeByte; split <;> rfl
@[simp] theorem State.storeByte_cr3 (s : State) (a : Nat) (b : Byte) : (s.storeByte a b).cr3 = s.cr3 := by
  unfold State.storeByte; split <;> rfl
@[simp] theorem State.storeByte_dr (s : State) (a : Nat) (b : Byte) : (s.storeByte a b).dr = s.dr := by
  unfold State.storeByte; split <;> rfl
@[simp] theorem State.storeByte_dr6 (s : State) (a : Nat) (b : Byte) : (s.storeByte a b).dr6 = s.dr6 := by
  unfold State.storeByte; split <;> rfl
@[simp] theorem State.storeByte_dr7 (s : State) (a : Nat) (b : Byte) : (s.storeByte a b).dr7 = s.dr7 := by
  unfold State.storeByte; split <;> rfl
@[simp] theorem State.storeByte_trSelector (s : State) (a : Nat) (b : Byte) : (s.storeByte a b).trSelector = s.trSelector := by
  unfold State.storeByte; split <;> rfl
@[simp] theorem State.storeByte_trHidden (s : State) (a : Nat) (b : Byte) : (s.storeByte a b).trHidden = s.trHidden := by
  unfold State.storeByte; split <;> rfl
@[simp] theorem State.storeByte_trLoaded (s : State) (a : Nat) (b : Byte) : (s.storeByte a b).trLoaded = s.trLoaded := by
  unfold State.storeByte; split <;> rfl
@[simp] theorem State.storeByte_cfg (s : State) (a : Nat) (b : Byte) : (s.storeByte a b).cfg = s.cfg := by
  unfold State.storeByte; split <;> rfl
@[simp] theorem State.storeByte_cfgIndex (s : State) (a : Nat) (b : Byte) : (s.storeByte a b).cfgIndex = s.cfgIndex := by
  unfold State.storeByte; split <;> rfl
@[simp] theorem State.storeByte_cfgArmed (s : State) (a : Nat) (b : Byte) : (s.storeByte a b).cfgArmed = s.cfgArmed := by
  unfold State.storeByte; split <;> rfl
@[simp] theorem State.storeByte_activity (s : State) (a : Nat) (b : Byte) : (s.storeByte a b).activity = s.activity := by
  unfold State.storeByte; split <;> rfl
@[simp] theorem State.storeByte_nmiPending (s : State) (a : Nat) (b : Byte) : (s.storeByte a b).nmiPending = s.nmiPending := by
  unfold State.storeByte; split <;> rfl
@[simp] theorem State.storeByte_env (s : State) (a : Nat) (b : Byte) : (s.storeByte a b).env = s.env := by
  unfold State.storeByte; split <;> rfl
@[simp] theorem State.storeByte_events (s : State) (a : Nat) (b : Byte) : (s.storeByte a b).events = s.events := by
  unfold State.storeByte; split <;> rfl
@[simp] theorem State.storeByte_accesses (s : State) (a : Nat) (b : Byte) : (s.storeByte a b).accesses = s.accesses := by
  unfold State.storeByte; split <;> rfl
@[simp] theorem State.storeByte_ioCycles (s : State) (a : Nat) (b : Byte) : (s.storeByte a b).ioCycles = s.ioCycles := by
  unfold State.storeByte; split <;> rfl
@[simp] theorem State.storeByte_draws (s : State) (a : Nat) (b : Byte) : (s.storeByte a b).draws = s.draws := by
  unfold State.storeByte; split <;> rfl

@[simp] theorem State.storeBytes_gpr (s : State) (a : Nat) (bs : List Byte) : (s.storeBytes a bs).gpr = s.gpr := by
  induction bs generalizing s a with
  | nil => rfl
  | cons b bs ih => simp [State.storeBytes, ih]
@[simp] theorem State.storeBytes_seg (s : State) (a : Nat) (bs : List Byte) : (s.storeBytes a bs).seg = s.seg := by
  induction bs generalizing s a with
  | nil => rfl
  | cons b bs ih => simp [State.storeBytes, ih]
@[simp] theorem State.storeBytes_pc (s : State) (a : Nat) (bs : List Byte) : (s.storeBytes a bs).pc = s.pc := by
  induction bs generalizing s a with
  | nil => rfl
  | cons b bs ih => simp [State.storeBytes, ih]
@[simp] theorem State.storeBytes_eflags (s : State) (a : Nat) (bs : List Byte) : (s.storeBytes a bs).eflags = s.eflags := by
  induction bs generalizing s a with
  | nil => rfl
  | cons b bs ih => simp [State.storeBytes, ih]
@[simp] theorem State.storeBytes_cr0 (s : State) (a : Nat) (bs : List Byte) : (s.storeBytes a bs).cr0 = s.cr0 := by
  induction bs generalizing s a with
  | nil => rfl
  | cons b bs ih => simp [State.storeBytes, ih]
@[simp] theorem State.storeBytes_cr3 (s : State) (a : Nat) (bs : List Byte) : (s.storeBytes a bs).cr3 = s.cr3 := by
  induction bs generalizing s a with
  | nil => rfl
  | cons b bs ih => simp [State.storeBytes, ih]
@[simp] theorem State.storeBytes_dr (s : State) (a : Nat) (bs : List Byte) : (s.storeBytes a bs).dr = s.dr := by
  induction bs generalizing s a with
  | nil => rfl
  | cons b bs ih => simp [State.storeBytes, ih]
@[simp] theorem State.storeBytes_dr6 (s : State) (a : Nat) (bs : List Byte) : (s.storeBytes a bs).dr6 = s.dr6 := by
  induction bs generalizing s a with
  | nil => rfl
  | cons b bs ih => simp [State.storeBytes, ih]
@[simp] theorem State.storeBytes_dr7 (s : State) (a : Nat) (bs : List Byte) : (s.storeBytes a bs).dr7 = s.dr7 := by
  induction bs generalizing s a with
  | nil => rfl
  | cons b bs ih => simp [State.storeBytes, ih]
@[simp] theorem State.storeBytes_trSelector (s : State) (a : Nat) (bs : List Byte) : (s.storeBytes a bs).trSelector = s.trSelector := by
  induction bs generalizing s a with
  | nil => rfl
  | cons b bs ih => simp [State.storeBytes, ih]
@[simp] theorem State.storeBytes_trHidden (s : State) (a : Nat) (bs : List Byte) : (s.storeBytes a bs).trHidden = s.trHidden := by
  induction bs generalizing s a with
  | nil => rfl
  | cons b bs ih => simp [State.storeBytes, ih]
@[simp] theorem State.storeBytes_trLoaded (s : State) (a : Nat) (bs : List Byte) : (s.storeBytes a bs).trLoaded = s.trLoaded := by
  induction bs generalizing s a with
  | nil => rfl
  | cons b bs ih => simp [State.storeBytes, ih]
@[simp] theorem State.storeBytes_cfg (s : State) (a : Nat) (bs : List Byte) : (s.storeBytes a bs).cfg = s.cfg := by
  induction bs generalizing s a with
  | nil => rfl
  | cons b bs ih => simp [State.storeBytes, ih]
@[simp] theorem State.storeBytes_cfgIndex (s : State) (a : Nat) (bs : List Byte) : (s.storeBytes a bs).cfgIndex = s.cfgIndex := by
  induction bs generalizing s a with
  | nil => rfl
  | cons b bs ih => simp [State.storeBytes, ih]
@[simp] theorem State.storeBytes_cfgArmed (s : State) (a : Nat) (bs : List Byte) : (s.storeBytes a bs).cfgArmed = s.cfgArmed := by
  induction bs generalizing s a with
  | nil => rfl
  | cons b bs ih => simp [State.storeBytes, ih]
@[simp] theorem State.storeBytes_activity (s : State) (a : Nat) (bs : List Byte) : (s.storeBytes a bs).activity = s.activity := by
  induction bs generalizing s a with
  | nil => rfl
  | cons b bs ih => simp [State.storeBytes, ih]
@[simp] theorem State.storeBytes_nmiPending (s : State) (a : Nat) (bs : List Byte) : (s.storeBytes a bs).nmiPending = s.nmiPending := by
  induction bs generalizing s a with
  | nil => rfl
  | cons b bs ih => simp [State.storeBytes, ih]
@[simp] theorem State.storeBytes_env (s : State) (a : Nat) (bs : List Byte) : (s.storeBytes a bs).env = s.env := by
  induction bs generalizing s a with
  | nil => rfl
  | cons b bs ih => simp [State.storeBytes, ih]
@[simp] theorem State.storeBytes_events (s : State) (a : Nat) (bs : List Byte) : (s.storeBytes a bs).events = s.events := by
  induction bs generalizing s a with
  | nil => rfl
  | cons b bs ih => simp [State.storeBytes, ih]
@[simp] theorem State.storeBytes_accesses (s : State) (a : Nat) (bs : List Byte) : (s.storeBytes a bs).accesses = s.accesses := by
  induction bs generalizing s a with
  | nil => rfl
  | cons b bs ih => simp [State.storeBytes, ih]
@[simp] theorem State.storeBytes_ioCycles (s : State) (a : Nat) (bs : List Byte) : (s.storeBytes a bs).ioCycles = s.ioCycles := by
  induction bs generalizing s a with
  | nil => rfl
  | cons b bs ih => simp [State.storeBytes, ih]
@[simp] theorem State.storeBytes_draws (s : State) (a : Nat) (bs : List Byte) : (s.storeBytes a bs).draws = s.draws := by
  induction bs generalizing s a with
  | nil => rfl
  | cons b bs ih => simp [State.storeBytes, ih]

/-! ### advance: the program counter, and the count of free values -/

@[simp] theorem State.advance_gpr (s : State) (n : Nat) : (s.advance n).gpr = s.gpr := by
  unfold State.advance; split <;> rfl
@[simp] theorem State.advance_seg (s : State) (n : Nat) : (s.advance n).seg = s.seg := by
  unfold State.advance; split <;> rfl
@[simp] theorem State.advance_eflags (s : State) (n : Nat) : (s.advance n).eflags = s.eflags := by
  unfold State.advance; split <;> rfl
@[simp] theorem State.advance_cr0 (s : State) (n : Nat) : (s.advance n).cr0 = s.cr0 := by
  unfold State.advance; split <;> rfl
@[simp] theorem State.advance_cr3 (s : State) (n : Nat) : (s.advance n).cr3 = s.cr3 := by
  unfold State.advance; split <;> rfl
@[simp] theorem State.advance_dr (s : State) (n : Nat) : (s.advance n).dr = s.dr := by
  unfold State.advance; split <;> rfl
@[simp] theorem State.advance_dr6 (s : State) (n : Nat) : (s.advance n).dr6 = s.dr6 := by
  unfold State.advance; split <;> rfl
@[simp] theorem State.advance_dr7 (s : State) (n : Nat) : (s.advance n).dr7 = s.dr7 := by
  unfold State.advance; split <;> rfl
@[simp] theorem State.advance_trSelector (s : State) (n : Nat) : (s.advance n).trSelector = s.trSelector := by
  unfold State.advance; split <;> rfl
@[simp] theorem State.advance_trHidden (s : State) (n : Nat) : (s.advance n).trHidden = s.trHidden := by
  unfold State.advance; split <;> rfl
@[simp] theorem State.advance_trLoaded (s : State) (n : Nat) : (s.advance n).trLoaded = s.trLoaded := by
  unfold State.advance; split <;> rfl
@[simp] theorem State.advance_cfg (s : State) (n : Nat) : (s.advance n).cfg = s.cfg := by
  unfold State.advance; split <;> rfl
@[simp] theorem State.advance_cfgIndex (s : State) (n : Nat) : (s.advance n).cfgIndex = s.cfgIndex := by
  unfold State.advance; split <;> rfl
@[simp] theorem State.advance_cfgArmed (s : State) (n : Nat) : (s.advance n).cfgArmed = s.cfgArmed := by
  unfold State.advance; split <;> rfl
@[simp] theorem State.advance_activity (s : State) (n : Nat) : (s.advance n).activity = s.activity := by
  unfold State.advance; split <;> rfl
@[simp] theorem State.advance_nmiPending (s : State) (n : Nat) : (s.advance n).nmiPending = s.nmiPending := by
  unfold State.advance; split <;> rfl
@[simp] theorem State.advance_mem (s : State) (n : Nat) : (s.advance n).mem = s.mem := by
  unfold State.advance; split <;> rfl
@[simp] theorem State.advance_smmMem (s : State) (n : Nat) : (s.advance n).smmMem = s.smmMem := by
  unfold State.advance; split <;> rfl
@[simp] theorem State.advance_env (s : State) (n : Nat) : (s.advance n).env = s.env := by
  unfold State.advance; split <;> rfl
@[simp] theorem State.advance_events (s : State) (n : Nat) : (s.advance n).events = s.events := by
  unfold State.advance; split <;> rfl
@[simp] theorem State.advance_accesses (s : State) (n : Nat) : (s.advance n).accesses = s.accesses := by
  unfold State.advance; split <;> rfl
@[simp] theorem State.advance_ioCycles (s : State) (n : Nat) : (s.advance n).ioCycles = s.ioCycles := by
  unfold State.advance; split <;> rfl

/-! ### passQuiet: the events only -/

@[simp] theorem State.passQuiet_gpr (s : State) : s.passQuiet.gpr = s.gpr := by
  unfold State.passQuiet; split <;> rfl
@[simp] theorem State.passQuiet_seg (s : State) : s.passQuiet.seg = s.seg := by
  unfold State.passQuiet; split <;> rfl
@[simp] theorem State.passQuiet_pc (s : State) : s.passQuiet.pc = s.pc := by
  unfold State.passQuiet; split <;> rfl
@[simp] theorem State.passQuiet_eflags (s : State) : s.passQuiet.eflags = s.eflags := by
  unfold State.passQuiet; split <;> rfl
@[simp] theorem State.passQuiet_cr0 (s : State) : s.passQuiet.cr0 = s.cr0 := by
  unfold State.passQuiet; split <;> rfl
@[simp] theorem State.passQuiet_cr3 (s : State) : s.passQuiet.cr3 = s.cr3 := by
  unfold State.passQuiet; split <;> rfl
@[simp] theorem State.passQuiet_dr (s : State) : s.passQuiet.dr = s.dr := by
  unfold State.passQuiet; split <;> rfl
@[simp] theorem State.passQuiet_dr6 (s : State) : s.passQuiet.dr6 = s.dr6 := by
  unfold State.passQuiet; split <;> rfl
@[simp] theorem State.passQuiet_dr7 (s : State) : s.passQuiet.dr7 = s.dr7 := by
  unfold State.passQuiet; split <;> rfl
@[simp] theorem State.passQuiet_trSelector (s : State) : s.passQuiet.trSelector = s.trSelector := by
  unfold State.passQuiet; split <;> rfl
@[simp] theorem State.passQuiet_trHidden (s : State) : s.passQuiet.trHidden = s.trHidden := by
  unfold State.passQuiet; split <;> rfl
@[simp] theorem State.passQuiet_trLoaded (s : State) : s.passQuiet.trLoaded = s.trLoaded := by
  unfold State.passQuiet; split <;> rfl
@[simp] theorem State.passQuiet_cfg (s : State) : s.passQuiet.cfg = s.cfg := by
  unfold State.passQuiet; split <;> rfl
@[simp] theorem State.passQuiet_cfgIndex (s : State) : s.passQuiet.cfgIndex = s.cfgIndex := by
  unfold State.passQuiet; split <;> rfl
@[simp] theorem State.passQuiet_cfgArmed (s : State) : s.passQuiet.cfgArmed = s.cfgArmed := by
  unfold State.passQuiet; split <;> rfl
@[simp] theorem State.passQuiet_activity (s : State) : s.passQuiet.activity = s.activity := by
  unfold State.passQuiet; split <;> rfl
@[simp] theorem State.passQuiet_nmiPending (s : State) : s.passQuiet.nmiPending = s.nmiPending := by
  unfold State.passQuiet; split <;> rfl
@[simp] theorem State.passQuiet_mem (s : State) : s.passQuiet.mem = s.mem := by
  unfold State.passQuiet; split <;> rfl
@[simp] theorem State.passQuiet_smmMem (s : State) : s.passQuiet.smmMem = s.smmMem := by
  unfold State.passQuiet; split <;> rfl
@[simp] theorem State.passQuiet_env (s : State) : s.passQuiet.env = s.env := by
  unfold State.passQuiet; split <;> rfl
@[simp] theorem State.passQuiet_accesses (s : State) : s.passQuiet.accesses = s.accesses := by
  unfold State.passQuiet; split <;> rfl
@[simp] theorem State.passQuiet_ioCycles (s : State) : s.passQuiet.ioCycles = s.ioCycles := by
  unfold State.passQuiet; split <;> rfl
@[simp] theorem State.passQuiet_draws (s : State) : s.passQuiet.draws = s.draws := by
  unfold State.passQuiet; split <;> rfl
/-- At a quiet boundary the mark is used up. -/
theorem State.passQuiet_of_quiet {s : State} {es : List Event} (h : s.events = .quiet :: es) :
    s.passQuiet = s.setEvents es := by simp [State.passQuiet, h]
/-- Past the last event nothing is used up. -/
theorem State.passQuiet_of_nil {s : State} (h : s.events = []) : s.passQuiet = s := by simp [State.passQuiet, h]

/-! ### decLoopCount: a general register only -/

@[simp] theorem State.decLoopCount_seg (s : State) : s.decLoopCount.seg = s.seg := by
  unfold State.decLoopCount; split <;> rfl
@[simp] theorem State.decLoopCount_pc (s : State) : s.decLoopCount.pc = s.pc := by
  unfold State.decLoopCount; split <;> rfl
@[simp] theorem State.decLoopCount_eflags (s : State) : s.decLoopCount.eflags = s.eflags := by
  unfold State.decLoopCount; split <;> rfl
@[simp] theorem State.decLoopCount_cr0 (s : State) : s.decLoopCount.cr0 = s.cr0 := by
  unfold State.decLoopCount; split <;> rfl
@[simp] theorem State.decLoopCount_cr3 (s : State) : s.decLoopCount.cr3 = s.cr3 := by
  unfold State.decLoopCount; split <;> rfl
@[simp] theorem State.decLoopCount_dr (s : State) : s.decLoopCount.dr = s.dr := by
  unfold State.decLoopCount; split <;> rfl
@[simp] theorem State.decLoopCount_dr6 (s : State) : s.decLoopCount.dr6 = s.dr6 := by
  unfold State.decLoopCount; split <;> rfl
@[simp] theorem State.decLoopCount_dr7 (s : State) : s.decLoopCount.dr7 = s.dr7 := by
  unfold State.decLoopCount; split <;> rfl
@[simp] theorem State.decLoopCount_trSelector (s : State) : s.decLoopCount.trSelector = s.trSelector := by
  unfold State.decLoopCount; split <;> rfl
@[simp] theorem State.decLoopCount_trHidden (s : State) : s.decLoopCount.trHidden = s.trHidden := by
  unfold State.decLoopCount; split <;> rfl
@[simp] theorem State.decLoopCount_trLoaded (s : State) : s.decLoopCount.trLoaded = s.trLoaded := by
  unfold State.decLoopCount; split <;> rfl
@[simp] theorem State.decLoopCount_cfg (s : State) : s.decLoopCount.cfg = s.cfg := by
  unfold State.decLoopCount; split <;> rfl
@[simp] theorem State.decLoopCount_cfgIndex (s : State) : s.decLoopCount.cfgIndex = s.cfgIndex := by
  unfold State.decLoopCount; split <;> rfl
@[simp] theorem State.decLoopCount_cfgArmed (s : State) : s.decLoopCount.cfgArmed = s.cfgArmed := by
  unfold State.decLoopCount; split <;> rfl
@[simp] theorem State.decLoopCount_activity (s : State) : s.decLoopCount.activity = s.activity := by
  unfold State.decLoopCount; split <;> rfl
@[simp] theorem State.decLoopCount_nmiPending (s : State) : s.decLoopCount.nmiPending = s.nmiPending := by
  unfold State.decLoopCount; split <;> rfl
@[simp] theorem State.decLoopCount_mem (s : State) : s.decLoopCount.mem = s.mem := by
  unfold State.decLoopCount; split <;> rfl
@[simp] theorem State.decLoopCount_smmMem (s : State) : s.decLoopCount.smmMem = s.smmMem := by
  unfold State.decLoopCount; split <;> rfl
@[simp] theorem State.decLoopCount_env (s : State) : s.decLoopCount.env = s.env := by
  unfold State.decLoopCount; split <;> rfl
@[simp] theorem State.decLoopCount_events (s : State) : s.decLoopCount.events = s.events := by
  unfold State.decLoopCount; split <;> rfl
@[simp] theorem State.decLoopCount_accesses (s : State) : s.decLoopCount.accesses = s.accesses := by
  unfold State.decLoopCount; split <;> rfl
@[simp] theorem State.decLoopCount_ioCycles (s : State) : s.decLoopCount.ioCycles = s.ioCycles := by
  unfold State.decLoopCount; split <;> rfl
@[simp] theorem State.decLoopCount_draws (s : State) : s.decLoopCount.draws = s.draws := by
  unfold State.decLoopCount; split <;> rfl

end Sys2Proof.Machine
end

