-- ==== Sys2Proof/Laws/Memory.lean ====
section
/-! SUPPORT. The byte stores: a byte read after a byte write, and that every memory operation keeps the canonical form. -/

namespace Sys2Proof.Machine

theorem Memory.read_of_wfFrom {lo : Nat} {m : Memory} (h : Memory.wfFrom lo m = true) {a : Nat} (ha : a < lo) :
    Memory.read m a = none := by
  induction m generalizing lo with
  | nil => rfl
  | cons e m ih =>
    obtain ⟨k, b⟩ := e
    simp only [Memory.wfFrom, Bool.and_eq_true, decide_eq_true_eq] at h
    have hk : k ≠ a := by omega
    simp only [Memory.read, if_neg hk]
    exact ih h.2 (by omega)

/-- The byte written reads back, in any store. -/
@[simp] theorem Memory.read_write_same (m : Memory) (a : Nat) (b : Byte) : Memory.read (Memory.write m a b) a = some b := by
  induction m with
  | nil => simp [Memory.write, Memory.read]
  | cons e m ih =>
    obtain ⟨k, x⟩ := e
    unfold Memory.write
    split
    · simp [Memory.read]
    · split
      · simp [Memory.read]
      · rename_i h; simp [Memory.read, Ne.symm h, ih]

/-- Every other byte reads as before, in any store. -/
theorem Memory.read_write_other (m : Memory) {a c : Nat} (b : Byte) (h : c ≠ a) :
    Memory.read (Memory.write m a b) c = Memory.read m c := by
  induction m with
  | nil => simp [Memory.write, Memory.read, Ne.symm h]
  | cons e m ih =>
    obtain ⟨k, x⟩ := e
    unfold Memory.write
    split
    · simp [Memory.read, Ne.symm h]
    · split
      · rename_i hk; subst hk; simp [Memory.read, Ne.symm h]
      · simp only [Memory.read, ih]

theorem Memory.write_wfFrom {lo : Nat} {m : Memory} (h : Memory.wfFrom lo m = true) {a : Nat} (hlo : lo ≤ a)
    (ha : a < 2 ^ 32) (b : Byte) : Memory.wfFrom lo (Memory.write m a b) = true := by
  induction m generalizing lo with
  | nil => simp only [Memory.write, Memory.wfFrom, hlo, ha, decide_true, Bool.and_self]
  | cons e m ih =>
    obtain ⟨k, x⟩ := e
    simp only [Memory.wfFrom, Bool.and_eq_true, decide_eq_true_eq] at h
    unfold Memory.write
    split
    · simp only [Memory.wfFrom, Bool.and_eq_true, decide_eq_true_eq]
      exact ⟨⟨hlo, ha⟩, ⟨by omega, h.1.2⟩, h.2⟩
    · split
      · rename_i hk; subst hk
        simp only [Memory.wfFrom, Bool.and_eq_true, decide_eq_true_eq]
        exact ⟨⟨hlo, ha⟩, h.2⟩
      · simp only [Memory.wfFrom, Bool.and_eq_true, decide_eq_true_eq]
        exact ⟨h.1, ih h.2 (by omega)⟩

/-- A byte write keeps the canonical form. -/
theorem Memory.write_wf {m : Memory} (h : Memory.wf m = true) {a : Nat} (ha : a < 2 ^ 32) (b : Byte) :
    Memory.wf (Memory.write m a b) = true := Memory.write_wfFrom h (Nat.zero_le a) ha b

/-- Two canonical stores that read the same everywhere are equal. -/
theorem Memory.ext_of_wfFrom {lo : Nat} {m n : Memory} (hm : Memory.wfFrom lo m = true) (hn : Memory.wfFrom lo n = true)
    (h : ∀ a, Memory.read m a = Memory.read n a) : m = n := by
  induction m generalizing lo n with
  | nil =>
    cases n with
    | nil => rfl
    | cons e n => have := h e.1; simp [Memory.read] at this
  | cons e m ih =>
    obtain ⟨k, x⟩ := e
    cases n with
    | nil => have := h k; simp [Memory.read] at this
    | cons f n =>
      obtain ⟨j, y⟩ := f
      simp only [Memory.wfFrom, Bool.and_eq_true, decide_eq_true_eq] at hm hn
      have hkj : k = j := by
        rcases Nat.lt_trichotomy k j with hlt | heq | hgt
        · have := h k
          rw [Memory.read, if_pos rfl, Memory.read, if_neg (by omega), Memory.read_of_wfFrom hn.2 (by omega)] at this
          exact absurd this (by simp)
        · exact heq
        · have := h j
          rw [Memory.read, if_neg (by omega), Memory.read_of_wfFrom hm.2 (by omega), Memory.read, if_pos rfl] at this
          exact absurd this (by simp)
      subst hkj
      have hxy : x = y := by have := h k; simpa [Memory.read] using this
      subst hxy
      refine congrArg _ (ih hm.2 hn.2 fun a => ?_)
      by_cases hak : k = a
      · subst hak
        rw [Memory.read_of_wfFrom hm.2 (by omega), Memory.read_of_wfFrom hn.2 (by omega)]
      · have := h a
        simpa [Memory.read, hak] using this

@[simp] theorem State.storeByte_reachesSmm (s : State) (a c : Nat) (b : Byte) :
    (s.storeByte a b).reachesSmm c = s.reachesSmm c := by
  simp [State.reachesSmm]

/-- A byte store in both byte stores: canonical before, canonical after. -/
theorem State.storeByte_wf {s : State} (h : Memory.wf s.mem = true ∧ Memory.wf s.smmMem = true) {a : Nat}
    (ha : a < 2 ^ 32) (b : Byte) :
    Memory.wf (s.storeByte a b).mem = true ∧ Memory.wf (s.storeByte a b).smmMem = true := by
  unfold State.storeByte
  split
  · exact ⟨h.1, Memory.write_wf h.2 ha b⟩
  · exact ⟨Memory.write_wf h.1 ha b, h.2⟩

/-- A store of many bytes keeps both byte stores canonical. -/
theorem State.storeBytes_wf {s : State} (h : Memory.wf s.mem = true ∧ Memory.wf s.smmMem = true) {a : Nat}
    {bs : List Byte} (ha : a + bs.length ≤ 2 ^ 32) :
    Memory.wf (s.storeBytes a bs).mem = true ∧ Memory.wf (s.storeBytes a bs).smmMem = true := by
  induction bs generalizing s a with
  | nil => exact h
  | cons b bs ih =>
    simp only [List.length_cons] at ha
    exact ih (State.storeByte_wf h (by omega) b) (by omega)

/-- The byte stored reads back through the store the access reaches. -/
@[simp] theorem State.loadByte_storeByte_same (s : State) (a : Nat) (b : Byte) :
    (s.storeByte a b).loadByte a = some b := by
  unfold State.loadByte
  rw [State.storeByte_reachesSmm]
  unfold State.storeByte
  split <;> simp

/-- A byte at another address reads as before. -/
theorem State.loadByte_storeByte_other (s : State) {a c : Nat} (b : Byte) (h : c ≠ a) :
    (s.storeByte a b).loadByte c = s.loadByte c := by
  unfold State.loadByte
  rw [State.storeByte_reachesSmm]
  unfold State.storeByte
  split <;> split <;> simp [Memory.read_write_other _ _ h]

theorem leBytes_length (n : Nat) (v : BitVec 32) : (leBytes n v).length = n := by
  induction n generalizing v with
  | zero => rfl
  | succ n ih => simp [leBytes, ih]

end Sys2Proof.Machine
end

