-- ==== Sys2Proof/Laws/Registers.lean ====
section
/-! SUPPORT. The register file: a register read after a register write, for every pair of register widths the meanings
use. -/

namespace Sys2Proof.Machine

theorem GReg.place_injective {q r : GReg} (h : GReg.place q = GReg.place r) : q = r := by
  cases q <;> cases r <;> first | rfl | exact absurd h (by decide)

theorem State.reg32_setReg32 (s : State) (r q : GReg) (v : BitVec 32) :
    (s.setReg32 r v).reg32 q = if q = r then v else s.reg32 q := by
  unfold State.reg32 State.setReg32
  by_cases h : q = r
  · subst h; simp
  · have hp : (GReg.place r).val ≠ (GReg.place q).val := fun e => h (GReg.place_injective (Fin.ext e)).symm
    simp [h, hp]

@[simp] theorem State.reg32_setReg32_same (s : State) (r : GReg) (v : BitVec 32) : (s.setReg32 r v).reg32 r = v := by
  simp [State.reg32_setReg32]

theorem State.reg32_setReg32_other (s : State) {r q : GReg} (v : BitVec 32) (h : q ≠ r) :
    (s.setReg32 r v).reg32 q = s.reg32 q := by
  simp [State.reg32_setReg32, h]

/-- A register read depends on the register file alone. -/
theorem State.reg32_congr {s t : State} (h : t.gpr = s.gpr) (q : GReg) : t.reg32 q = s.reg32 q := by
  simp [State.reg32, h]

theorem State.reg16_congr {s t : State} (h : t.gpr = s.gpr) (q : GReg) : t.reg16 q = s.reg16 q := by
  simp [State.reg16, State.reg32_congr h]

theorem State.reg8_congr {s t : State} (h : t.gpr = s.gpr) (q : Reg8) : t.reg8 q = s.reg8 q := by
  simp [State.reg8, State.reg32_congr h]

theorem State.reg32_setReg16 (s : State) (r q : GReg) (v : BitVec 16) :
    (s.setReg16 r v).reg32 q = if q = r then (s.reg32 r).extractLsb' 16 16 ++ v else s.reg32 q := by
  unfold State.setReg16; exact State.reg32_setReg32 ..

theorem extractLow_append (x v : BitVec 16) : (x ++ v : BitVec 32).extractLsb' 0 16 = v := by
  have h := fun i => BitVec.getLsbD_append (x := x) (y := v) (i := i)
  apply BitVec.eq_of_getLsbD_eq
  intro i hi
  rw [BitVec.getLsbD_extractLsb', Nat.zero_add, h]
  simp [hi]

theorem extractHigh_append (x v : BitVec 16) : (x ++ v : BitVec 32).extractLsb' 16 16 = x := by
  have h := fun i => BitVec.getLsbD_append (x := x) (y := v) (i := i)
  apply BitVec.eq_of_getLsbD_eq
  intro i hi
  rw [BitVec.getLsbD_extractLsb', h]
  simp [hi]

@[simp] theorem State.reg16_setReg16_same (s : State) (r : GReg) (v : BitVec 16) : (s.setReg16 r v).reg16 r = v := by
  simp [State.reg16, State.reg32_setReg16, extractLow_append]

theorem State.reg32_setReg8 (s : State) (r : Reg8) (q : GReg) (v : BitVec 8) :
    (s.setReg8 r v).reg32 q =
      if q = Reg8.parent r then putByte (s.reg32 (Reg8.parent r)) (Reg8.shift r) v else s.reg32 q := by
  unfold State.setReg8; exact State.reg32_setReg32 ..

theorem getLsbD_putByte (x : BitVec 32) (k : Nat) (v : BitVec 8) (i : Nat) :
    (putByte x k v).getLsbD i = if k ≤ i ∧ i < k + 8 ∧ i < 32 then v.getLsbD (i - k) else x.getLsbD i := by
  by_cases hi : i < 32
  · have hff : ∀ j, (0xFF#32).getLsbD j = decide (j < 8) := by
      intro j
      by_cases hj : j < 32
      · have : ∀ j : Fin 32, (0xFF#32).getLsbD j.val = decide (j.val < 8) := by decide
        exact this ⟨j, hj⟩
      · rw [BitVec.getLsbD_of_ge _ _ (by omega)]; simp; omega
    unfold putByte
    simp only [BitVec.getLsbD_or, BitVec.getLsbD_and, BitVec.getLsbD_not, BitVec.getLsbD_shiftLeft, hff,
      BitVec.getLsbD_setWidth, hi]
    by_cases h1 : i < k
    · simp [h1]
    · by_cases h2 : i < k + 8
      · have : i - k < 8 := by omega
        have : i - k < 32 := by omega
        simp [*]
      · have h3 : ¬ i - k < 8 := by omega
        have : v.getLsbD (i - k) = false := BitVec.getLsbD_of_ge _ _ (by omega)
        simp [*]
  · rw [BitVec.getLsbD_of_ge _ _ (by omega)]
    simp [hi, BitVec.getLsbD_of_ge x i (by omega)]

theorem putByte_here (x : BitVec 32) (k : Nat) (v : BitVec 8) (hk : k + 8 ≤ 32) :
    (putByte x k v).extractLsb' k 8 = v := by
  apply BitVec.eq_of_getLsbD_eq
  intro i hi
  have : k + i < 32 := by omega
  rw [BitVec.getLsbD_extractLsb', getLsbD_putByte]
  simp [hi, this]

theorem putByte_elsewhere (x : BitVec 32) (k j : Nat) (v : BitVec 8) (h : j + 8 ≤ k ∨ k + 8 ≤ j) :
    (putByte x k v).extractLsb' j 8 = x.extractLsb' j 8 := by
  apply BitVec.eq_of_getLsbD_eq
  intro i hi
  have : ¬ (k ≤ j + i ∧ j + i < k + 8 ∧ j + i < 32) := by omega
  rw [BitVec.getLsbD_extractLsb', BitVec.getLsbD_extractLsb', getLsbD_putByte, if_neg this]

/-- An 8-bit register read after an 8-bit register write: the value in the same register, the old value in every other,
the other byte of the same general register among them. -/
theorem State.reg8_setReg8 (s : State) (r q : Reg8) (v : BitVec 8) :
    (s.setReg8 r v).reg8 q = if q = r then v else s.reg8 q := by
  unfold State.reg8
  rw [State.reg32_setReg8]
  by_cases h : q = r
  · subst h
    simp only [if_true]
    exact putByte_here _ _ _ (by cases q <;> decide)
  · rw [if_neg h]
    by_cases hp : Reg8.parent q = Reg8.parent r
    · rw [if_pos hp, hp]
      exact putByte_elsewhere _ _ _ _ (by revert h hp; cases q <;> cases r <;> decide)
    · rw [if_neg hp]

@[simp] theorem State.reg8_setReg8_same (s : State) (r : Reg8) (v : BitVec 8) : (s.setReg8 r v).reg8 r = v := by
  simp [State.reg8_setReg8]

/-- The high half of a general register is unchanged by a write of its byte registers. -/
theorem putByte_highHalf (x : BitVec 32) (k : Nat) (v : BitVec 8) (hk : k + 8 ≤ 16) :
    (putByte x k v).extractLsb' 16 16 = x.extractLsb' 16 16 := by
  apply BitVec.eq_of_getLsbD_eq
  intro i hi
  have : ¬ (k ≤ 16 + i ∧ 16 + i < k + 8 ∧ 16 + i < 32) := by omega
  rw [BitVec.getLsbD_extractLsb', BitVec.getLsbD_extractLsb', getLsbD_putByte, if_neg this]

@[simp] theorem State.reg32_advance (s : State) (n : Nat) (q : GReg) : (s.advance n).reg32 q = s.reg32 q :=
  State.reg32_congr (by simp) q
@[simp] theorem State.reg16_advance (s : State) (n : Nat) (q : GReg) : (s.advance n).reg16 q = s.reg16 q :=
  State.reg16_congr (by simp) q
@[simp] theorem State.reg8_advance (s : State) (n : Nat) (q : Reg8) : (s.advance n).reg8 q = s.reg8 q :=
  State.reg8_congr (by simp) q

/-- Everything an advance can do to the program counter. -/
theorem State.advance_pc (s : State) (n : Nat) :
    (s.advance n).pc = if s.pc.toNat + n < s.pcLimit then s.pc + BitVec.ofNat 32 n else Config.freeDword s.draws := by
  unfold State.advance; split <;> rfl

/-- An advance draws a free value exactly where the program counter leaves its range. -/
theorem State.advance_draws (s : State) (n : Nat) :
    (s.advance n).draws = if s.pc.toNat + n < s.pcLimit then s.draws else s.draws + 1 := by
  unfold State.advance; split <;> rfl

end Sys2Proof.Machine
end

