-- ==== Sys2Proof/Laws/Ops.lean ====
section
/-! SUPPORT. For each shared operation, once, everything it can do when it answers a next state. Proofs cite these
instead of unfolding the operation. -/

namespace Sys2Proof.Machine

theorem andThen_next {α β : Type} {x : Result α} {f : α → Result β} {b : β} :
    andThen x f = .next b ↔ ∃ a, x = .next a ∧ f a = .next b := by
  cases x <;> simp [andThen]

theorem andThen_fault {α β : Type} {x : Result α} {f : α → Result β} {r : Fault} :
    andThen x f = .fault r ↔ x = .fault r ∨ ∃ a, x = .next a ∧ f a = .fault r := by
  cases x <;> simp [andThen]

@[simp] theorem andThen_of_next {α β : Type} (a : α) (f : α → Result β) : andThen (.next a) f = f a := rfl
@[simp] theorem andThen_of_fault {α β : Type} (r : Fault) (f : α → Result β) : andThen (.fault r) f = .fault r := rfl
@[simp] theorem andThen_of_refused {α β : Type} (r : Refusal) (f : α → Result β) :
    andThen (.refused r) f = .refused r := rfl

@[simp] theorem raiseException_ne_next {α : Type} (x : ExceptionName) (k : Option (BitVec 16)) (pc : BitVec 32)
    (s : State) (a : α) : raiseException x k pc s ≠ (.next a : Result α) := by simp [raiseException]

@[simp] theorem debugException_ne_next {α : Type} (s : State) (hits : List (Fin 4)) (bs bt : Bool) (pc : BitVec 32)
    (a : α) : debugException s hits bs bt pc ≠ (.next a : Result α) := by simp [debugException]

/-! ### Memory -/

/-- While no active region is misaligned the attribute resolution answers, for every access and every address. -/
theorem attributesAt_aligned {s : State} (h : regionsAligned s.cfg) (k a : Nat) :
    s.attributesAt k a =
      .ok (resolveAttributes Config.rceOutsideNoncacheable s.cfg (s.pinSample k).ken (s.pinSample k).wbwtHigh a) := by
  have hn : regionNumbers.find? (regionUnaligned s.cfg) = none := List.find?_eq_none.2 fun n _ => by simp [h n]
  simp [State.attributesAt, attributesOf, hn]

/-- An aligned access never runs past the end of memory: what is left of its checks is the attribute resolution. -/
theorem checkAccess_aligned {s : State} {a : BitVec 32} {w : Width} (h : a.toNat % w.bytes = 0) :
    s.checkAccess a w = match s.attributes a.toNat with
      | .error n => .refused (.regionMisaligned n)
      | .ok t => .next t := by
  have hend : a.toNat + w.bytes ≤ 2 ^ 32 := by
    have := a.isLt
    cases w <;> simp only [Width.bytes] at h ⊢ <;> omega
  unfold State.checkAccess
  refine (if_neg (by simp [h])).trans ((if_neg (by omega)).trans ?_)
  cases s.attributes a.toNat <;> rfl

/-- The checks of an access that is not aligned, no policy being given. -/
theorem checkAccess_misaligned {s : State} {a : BitVec 32} {w : Width} (h : a.toNat % w.bytes ≠ 0) :
    s.checkAccess a w = .refused (.misalignedAccess a) := by
  rw [State.checkAccess, if_pos ⟨h, rfl⟩]

/-- An access that passes its checks is aligned and has attributes. -/
theorem checkAccess_next {s : State} {a : BitVec 32} {w : Width} {t : Attributes} (h : s.checkAccess a w = .next t) :
    a.toNat % w.bytes = 0 ∧ s.attributes a.toNat = .ok t := by
  by_cases hal : a.toNat % w.bytes = 0
  · rw [checkAccess_aligned hal] at h
    split at h
    · simp at h
    · rename_i u hu
      simp only [Host.Outcome.next.injEq] at h
      exact ⟨hal, h ▸ hu⟩
  · simp [checkAccess_misaligned hal] at h

/-- A memory read that goes on is aligned, found a value in every byte, and only recorded the access. -/
theorem memRead_next {s : State} {a : BitVec 32} {w : Width} {r : BitVec 32 × State} (h : s.memRead a w = .next r) :
    ∃ t bs, a.toNat % w.bytes = 0 ∧ s.attributes a.toNat = .ok t ∧ s.loadBytes a.toNat w.bytes = .ok bs ∧
      r = (leValue bs, s.record ⟨a, w, .read, s.reachesSmm a.toNat, t⟩) := by
  unfold State.memRead at h
  obtain ⟨t, ht, h⟩ := andThen_next.1 h
  obtain ⟨h1, h2⟩ := checkAccess_next ht
  split at h
  · simp at h
  · rename_i bs hbs
    simp only [Host.Outcome.next.injEq] at h
    exact ⟨t, bs, h1, h2, hbs, h.symm⟩

/-- Reading a row that lies inside memory is a memory read at its address. -/
theorem readRow_inside {s : State} {base : BitVec 32} {offset : Nat} {w : Width}
    (h : base.toNat + offset + w.bytes ≤ 2 ^ 32) :
    s.readRow base offset w = s.memRead (base + BitVec.ofNat 32 offset) w := by
  rw [State.readRow, if_neg (by omega)]

/-- A row read that goes on lies inside memory, and is a memory read at its address. -/
theorem readRow_next {s : State} {base : BitVec 32} {offset : Nat} {w : Width} {r : BitVec 32 × State}
    (h : s.readRow base offset w = .next r) :
    base.toNat + offset + w.bytes ≤ 2 ^ 32 ∧ s.memRead (base + BitVec.ofNat 32 offset) w = .next r := by
  unfold State.readRow at h
  split at h
  · simp at h
  · exact ⟨by omega, h⟩

/-- A memory write that goes on is aligned and not write protected; it stores its bytes and records the access. -/
theorem memWrite_next {s u : State} {a v : BitVec 32} {w : Width} (h : s.memWrite a w v = .next u) :
    ∃ t, a.toNat % w.bytes = 0 ∧ s.attributes a.toNat = .ok t ∧ t.writeProtected = false ∧
      u = (s.storeBytes a.toNat (leBytes w.bytes v)).record ⟨a, w, .write, s.reachesSmm a.toNat, t⟩ := by
  unfold State.memWrite at h
  obtain ⟨t, ht, h⟩ := andThen_next.1 h
  obtain ⟨h1, h2⟩ := checkAccess_next ht
  split at h
  · simp at h
  · rename_i hp
    simp only [Host.Outcome.next.injEq] at h
    exact ⟨t, h1, h2, by simpa using hp, h.symm⟩

/-- A fetch that goes on decoded the bytes at `pc`. -/
theorem fetch_next {s : State} {i : Instr} (h : s.fetch = .next i) :
    (∃ t, s.fetchAttributes = .ok t) ∧ ∃ rest, decode s.fetchBytes.1 = .ok (i, rest) := by
  unfold State.fetch at h
  split at h
  · simp at h
  · rename_i t ht
    refine ⟨⟨t, ht⟩, ?_⟩
    split at h
    · rename_i j rest hd
      simp only [Host.Outcome.next.injEq] at h
      exact ⟨rest, h ▸ hd⟩
    all_goals simp at h

/-- A fetch whose bytes decode goes on, while no active region is misaligned. -/
theorem fetch_of_decode {s : State} {i : Instr} {rest : List Byte} (h : regionsAligned s.cfg)
    (hd : decode s.fetchBytes.1 = .ok (i, rest)) : s.fetch = .next i := by
  simp [State.fetch, State.fetchAttributes, attributesAt_aligned h, hd]

/-- A descriptor that is read: two dword reads in a row, inside memory. -/
theorem readDescriptor_next {s : State} {d : BitVec 32} {x : BitVec 64 × State} (h : s.readDescriptor d = .next x) :
    d.toNat + 8 ≤ 2 ^ 32 ∧
      ∃ lo hi, s.memRead d .dword = .next lo ∧ lo.2.memRead (d + 4#32) .dword = .next hi ∧ x = (hi.1 ++ lo.1, hi.2) := by
  unfold State.readDescriptor at h
  obtain ⟨lo, hlo, h⟩ := andThen_next.1 h
  obtain ⟨hi, hhi, h⟩ := andThen_next.1 h
  obtain ⟨-, hlo⟩ := readRow_next hlo
  obtain ⟨hend, hhi⟩ := readRow_next hhi
  simp only [Host.Outcome.next.injEq] at h
  exact ⟨by simpa [Width.bytes, Nat.add_assoc] using hend, lo, hi, by simpa using hlo, hhi, h.symm⟩

/-- Reading a descriptor changes nothing but the list of data accesses, which gains the two reads. -/
theorem readDescriptor_state {s : State} {d : BitVec 32} {x : BitVec 64 × State} (h : s.readDescriptor d = .next x) :
    ∃ a b, x.2 = (s.record a).record b := by
  obtain ⟨-, lo, hi, hlo, hhi, rfl⟩ := readDescriptor_next h
  obtain ⟨t, bs, -, -, -, rfl⟩ := memRead_next hlo
  obtain ⟨t', bs', -, -, -, rfl⟩ := memRead_next hhi
  exact ⟨_, _, rfl⟩

/-- The decode of a gate in memory that goes on: the fields of a descriptor that was read. -/
theorem gateAt_next {s : State} {d : BitVec 32} {g : Gate × State} (h : s.gateAt d = .next g) :
    ∃ x, s.readDescriptor d = .next x ∧ g = (gateFields (x.1.extractLsb' 0 32) (x.1.extractLsb' 32 32), x.2) := by
  unfold State.gateAt at h
  obtain ⟨x, hx, h⟩ := andThen_next.1 h
  simp only [Host.Outcome.next.injEq] at h
  exact ⟨x, hx, h.symm⟩

/-- A field of a 32-bit TSS that is read comes from its row. -/
theorem tss32Field_next {s : State} {base : BitVec 32} {f : Tss32Field} {r : BitVec 32 × State}
    (h : s.tss32Field base f = .next r) : ∃ x, s.readRow base f.offset .dword = .next x ∧ r = (f.get x.1, x.2) := by
  unfold State.tss32Field at h
  obtain ⟨x, hx, h⟩ := andThen_next.1 h
  simp only [Host.Outcome.next.injEq] at h
  exact ⟨x, hx, h.symm⟩

/-- A field of a 16-bit TSS that is read is its row. -/
theorem tss16Field_next {s : State} {base : BitVec 32} {f : Tss16Field} {r : BitVec 16 × State}
    (h : s.tss16Field base f = .next r) : ∃ x, s.readRow base f.offset .word = .next x ∧ r = (x.1.setWidth 16, x.2) := by
  unfold State.tss16Field at h
  obtain ⟨x, hx, h⟩ := andThen_next.1 h
  simp only [Host.Outcome.next.injEq] at h
  exact ⟨x, hx, h.symm⟩

/-! ### Ports 22h and 23h -/

/-- An on-chip write that goes on: nothing for DIR0 and DIR1, otherwise the new byte of R233 with no reserved bit set. -/
theorem configWrite_next {s t : State} {i v : BitVec 8} (h : configWrite s i v = .next t) :
    ((i = 0xFE#8 ∨ i = 0xFF#8) ∧ t = s) ∨
      (¬ (i = 0xFE#8 ∨ i = 0xFF#8) ∧ v &&& reservedMask i = 0#8 ∧
        t = s.setCfg (configStore s.cfg i (newConfigByte s.cfg s.env.smm i v))) := by
  unfold configWrite at h
  split at h
  · rename_i hi
    simp only [Host.Outcome.next.injEq] at h
    exact .inl ⟨hi, h.symm⟩
  · rename_i hi
    split at h
    · simp at h
    · rename_i hv
      simp only [Host.Outcome.next.injEq] at h
      exact .inr ⟨hi, by simpa using hv, h.symm⟩

/-- A port 23h write with a selection pending, when it goes on: on chip or external, and the selection is used up. -/
theorem armedWrite_next {s t : State} {v : BitVec 8} (h : armedWrite s v = .next t) :
    (classify s.cfgIndex (mapen s.cfg) = .onChip ∧ configWrite s.disarm s.cfgIndex v = .next t) ∨
      (classify s.cfgIndex (mapen s.cfg) = .external ∧ t = s.disarm.extWrite 0x23#16 v) := by
  unfold armedWrite at h
  split at h
  · rename_i hc; exact .inl ⟨hc, h⟩
  · rename_i hc
    simp only [Host.Outcome.next.injEq] at h
    exact .inr ⟨hc, h.symm⟩
  · simp at h
  · simp at h

/-- A port 23h read with a selection pending, when it goes on: on chip, external, or an index without a register. -/
theorem armedRead_next {s : State} {r : BitVec 8 × State} (h : armedRead s = .next r) :
    (classify s.cfgIndex (mapen s.cfg) = .onChip ∧ r = (configByte s.cfg s.cfgIndex, s.disarm)) ∨
      (classify s.cfgIndex (mapen s.cfg) = .external ∧ r = s.disarm.extRead 0x23#16) ∨
      (classify s.cfgIndex (mapen s.cfg) = .noRegister ∧ r = (Config.freeByte s.draws, s.disarm.tick)) := by
  unfold armedRead at h
  split at h
  · rename_i hc
    simp only [Host.Outcome.next.injEq] at h
    exact .inl ⟨hc, h.symm⟩
  · rename_i hc
    simp only [Host.Outcome.next.injEq] at h
    exact .inr (.inl ⟨hc, h.symm⟩)
  · rename_i hc
    simp only [Host.Outcome.next.injEq] at h
    exact .inr (.inr ⟨hc, h.symm⟩)
  · simp at h

/-- A port write that goes on: a selection, a transfer with a selection pending, or an external cycle. -/
theorem ioWrite8_next {s t : State} {port : BitVec 16} {v : BitVec 8} (h : ioWrite8 s port v = .next t) :
    s.ioPermitted = true ∧
      ((port = 0x22#16 ∧ t = selectIndex s v) ∨
        (port = 0x23#16 ∧ s.cfgArmed = true ∧ armedWrite s v = .next t) ∨
        (port ≠ 0x22#16 ∧ (port = 0x23#16 → s.cfgArmed = false) ∧ t = s.extWrite port v)) := by
  unfold ioWrite8 at h
  split at h
  · simp at h
  · rename_i hp
    refine ⟨by simpa using hp, ?_⟩
    split at h
    · rename_i h22
      simp only [Host.Outcome.next.injEq] at h
      exact .inl ⟨h22, h.symm⟩
    · rename_i h22
      split at h
      · rename_i h23
        split at h
        · rename_i ha; exact .inr (.inl ⟨h23, ha, h⟩)
        · rename_i ha
          simp only [Host.Outcome.next.injEq] at h
          exact .inr (.inr ⟨h22, fun _ => by simpa using ha, h.symm⟩)
      · rename_i h23
        simp only [Host.Outcome.next.injEq] at h
        exact .inr (.inr ⟨h22, fun e => absurd e h23, h.symm⟩)

/-- A port read that goes on: a transfer with a selection pending, or an external cycle. -/
theorem ioRead8_next {s : State} {port : BitVec 16} {r : BitVec 8 × State} (h : ioRead8 s port = .next r) :
    s.ioPermitted = true ∧
      ((port = 0x23#16 ∧ s.cfgArmed = true ∧ armedRead s = .next r) ∨
        ((port = 0x22#16 ∨ port = 0x23#16 → s.cfgArmed = false) ∧ r = s.extRead port)) := by
  unfold ioRead8 at h
  split at h
  · simp at h
  · rename_i hp
    refine ⟨by simpa using hp, ?_⟩
    split at h
    · split at h
      · simp at h
      · rename_i ha
        simp only [Host.Outcome.next.injEq] at h
        exact .inr ⟨fun _ => by simpa using ha, h.symm⟩
    · rename_i h22
      split at h
      · rename_i h23
        split at h
        · rename_i ha; exact .inl ⟨h23, ha, h⟩
        · rename_i ha
          simp only [Host.Outcome.next.injEq] at h
          exact .inr ⟨fun _ => by simpa using ha, h.symm⟩
      · rename_i h23
        simp only [Host.Outcome.next.injEq] at h
        exact .inr ⟨fun e => (e.elim (absurd · h22) (absurd · h23)), h.symm⟩

theorem outByte_next {s t : State} {port : BitVec 16} {n : Nat} (h : outByte s port n = .next t) :
    ∃ u, ioWrite8 s port s.al = .next u ∧ t = u.advance n := by
  unfold outByte at h
  obtain ⟨u, hu, h⟩ := andThen_next.1 h
  simp only [Host.Outcome.next.injEq] at h
  exact ⟨u, hu, h.symm⟩

theorem inByte_next {s t : State} {port : BitVec 16} {n : Nat} (h : inByte s port n = .next t) :
    ∃ r, ioRead8 s port = .next r ∧ t = (r.2.setAl r.1).advance n := by
  unfold inByte at h
  obtain ⟨r, hr, h⟩ := andThen_next.1 h
  simp only [Host.Outcome.next.injEq] at h
  exact ⟨r, hr, h.symm⟩

/-! ### The debug registers -/

/-- A MOV with a debug register that goes on passed the three checks of R312 and R313. -/
theorem debugMove_next {s t : State} {n : DrNum} {f : Result State} (h : debugMove s n f = .next t) :
    n.named = true ∧ s.env.cpl = 0#2 ∧ gdSet s.dr7 = false ∧ f = .next t := by
  unfold debugMove at h
  split at h
  · simp at h
  · rename_i hn
    split at h
    · simp at h
    · rename_i hc
      split at h
      · simp at h
      · rename_i hg
        exact ⟨by simpa using hn, by simpa using hc, by simpa using hg, h⟩

/-- The check before an instruction, when it goes on: every enabled breakpoint is usable, none is an execution
breakpoint that matches, and only the list of data accesses is emptied. -/
theorem beforeInstruction_next {s t : State} (h : s.beforeInstruction = .next t) :
    breakpointNumbers.findSome? (bpProblem s.dr7) = none ∧ (executionHits s).any (bpEnabled s.dr7) = false ∧
      t = s.clearAccesses := by
  unfold State.beforeInstruction at h
  split at h
  · simp at h
  · rename_i hp
    split at h
    · simp at h
    · rename_i hx
      simp only [Host.Outcome.next.injEq] at h
      exact ⟨hp, by simpa using hx, h.symm⟩

/-- While the run goes on the next instruction is the one at `pc`. -/
@[simp] theorem State.nextPc_running {t : State} (h : t.activity = .running) : t.nextPc = t.pc := if_pos h

/-- After a HLT the next instruction is the one past it, wherever that stays in the range of the program counter. -/
theorem State.nextPc_stopped {t : State} (h : t.activity ≠ .running) (hpc : t.pc.toNat + 1 < t.pcLimit) :
    t.nextPc = t.pc + 1#32 := by
  simp [State.nextPc, h, State.advance, hpc, State.setPc]

/-- The check after an instruction, when it goes on, changes nothing: no single step, no enabled data breakpoint hit. -/
theorem afterInstruction_next {t u : State} {b : Bool} (h : t.afterInstruction b = .next u) :
    b = false ∧ (dataHits t).any (bpEnabled t.dr7) = false ∧ u = t := by
  unfold State.afterInstruction at h
  split at h
  · simp at h
  · rename_i hx
    simp only [Host.Outcome.next.injEq] at h
    simp only [Bool.or_eq_true, not_or, Bool.not_eq_true] at hx
    exact ⟨hx.1, hx.2, h.symm⟩

/-! ### Instructions and steps -/

/-- LTR, when it goes on: the four conditions of R191 and R192, and the Task Register loaded. -/
theorem execLtr_next {s t : State} {r : GReg} (h : execLtr r s = .next t) :
    s.env.protectedMode = true ∧ s.env.cpl = 0#2 ∧ namesGdt (s.reg16 r) = true ∧
      ∃ d x, s.gdtEntry (s.reg16 r) = some d ∧ s.readDescriptor d = .next x ∧ (s.tssKindOf x.1).isSome = true ∧
        t = (x.2.loadTr (s.reg16 r) x.1).advance 3 := by
  unfold execLtr at h
  split at h
  · simp at h
  · rename_i hp
    split at h
    · simp at h
    · rename_i hc
      split at h
      · simp at h
      · rename_i hg
        refine ⟨by simpa using hp, by simpa using hc, by simpa using hg, ?_⟩
        split at h
        · simp at h
        · rename_i d hd
          obtain ⟨x, hx, h⟩ := andThen_next.1 h
          split at h
          · rename_i hk
            simp only [Host.Outcome.next.injEq] at h
            exact ⟨d, x, hd, hx, hk, h.symm⟩
          · simp at h

/-- STR, when it goes on: protected mode, and the visible selector in the register. -/
theorem execStr_next {s t : State} {r : GReg} (h : execStr r s = .next t) :
    s.env.protectedMode = true ∧ t = (s.setReg16 r s.trSelector).advance 3 := by
  unfold execStr at h
  split at h
  · simp at h
  · rename_i hp
    simp only [Host.Outcome.next.injEq] at h
    exact ⟨by simpa using hp, h.symm⟩

/-- HLT, when it goes on: the run halts or is suspended. -/
theorem execHlt_next {s t : State} (h : execHlt s = .next t) :
    (s.env.protectedMode = false ∨ s.env.cpl = 0#2) ∧
      t = s.setActivity (if suspHlt s.cfg then .suspended .hlt else .halted) := by
  unfold execHlt at h
  split at h
  · simp at h
  · rename_i hp
    simp only [Host.Outcome.next.injEq] at h
    refine ⟨?_, h.symm⟩
    by_cases hc : s.env.cpl = 0#2
    · exact .inr hc
    · exact .inl (by simpa [hc] using hp)

/-- LOOP always goes on. -/
theorem execLoop_next {s t : State} {rel : BitVec 8} (h : execLoop rel s = .next t) :
    t = if s.decLoopCount.loopCount = 0#32 then s.decLoopCount.advance 2 else s.decLoopCount.setPc (s.relTarget rel) := by
  simp only [execLoop] at h
  split at h <;> simp_all

/-- An instruction that goes on, inside the debug procedure. -/
theorem runInstruction_next {s u : State} (h : runInstruction s = .next u) :
    ∃ i, s.clearAccesses.fetch = .next i ∧ exec i s.clearAccesses = .next u ∧ s.tf = false := by
  unfold runInstruction at h
  obtain ⟨s1, h1, h⟩ := andThen_next.1 h
  obtain ⟨-, -, rfl⟩ := beforeInstruction_next h1
  obtain ⟨i, hi, h⟩ := andThen_next.1 h
  obtain ⟨t, ht, h⟩ := andThen_next.1 h
  obtain ⟨htf, -, rfl⟩ := afterInstruction_next h
  exact ⟨i, hi, ht, htf⟩

/-- What happens without an event, when it goes on: an instruction runs, or a stopped CPU stays as it is. -/
theorem runOn_next {s u : State} {o : Host.Outcome State Fault Refusal} (h : runOn s o = .next u) :
    (s.nmiPending && s.nmiRecognized) = false ∧
      ((s.activity = .running ∧ runInstruction s = .next u) ∨ (s.activity ≠ .running ∧ o = .next u)) := by
  unfold runOn at h
  split at h
  · simp at h
  · rename_i hn
    refine ⟨by simpa using hn, ?_⟩
    split at h
    · rename_i ha; exact .inl ⟨ha, h⟩
    · rename_i ha; exact .inr ⟨ha, h⟩

/-- Everything a step can do when it goes on: take an event, run an instruction, or pass a quiet boundary while the CPU is
halted or suspended. -/
theorem step_next {s u : State} (h : step s = .next u) :
    (∃ e es, s.events = e :: es ∧ e ≠ .quiet ∧ takeEvent e (s.setEvents es) = .next u) ∨
      ((s.events = [] ∨ s.events.head? = some .quiet) ∧ s.activity = .running ∧ runInstruction s.passQuiet = .next u) ∨
      (s.events.head? = some .quiet ∧ s.activity ≠ .running ∧ u = s.passQuiet) := by
  unfold step at h
  split at h
  · rename_i he
    obtain ⟨-, ⟨ha, h⟩ | ⟨-, h⟩⟩ := runOn_next h
    · exact .inr (.inl ⟨.inl he, ha, by rwa [State.passQuiet_of_nil he]⟩)
    · simp at h
  · rename_i es he
    obtain ⟨-, ⟨ha, h⟩ | ⟨ha, h⟩⟩ := runOn_next h
    · exact .inr (.inl ⟨.inr (by simp [he]), by simpa using ha, by rwa [State.passQuiet_of_quiet he]⟩)
    · simp only [Host.Outcome.next.injEq] at h
      exact .inr (.inr ⟨by simp [he], by simpa using ha, by rw [State.passQuiet_of_quiet he, h]⟩)
  · rename_i e es hq he
    exact .inl ⟨e, es, he, fun hn => hq hn, h⟩

/-- A step that is ready to run is an instruction in the state past the boundary. -/
theorem step_readyToRun {s : State} (h : readyToRun s) : step s = runInstruction s.passQuiet := by
  obtain ⟨he | he, hn, ha⟩ := h
  · rw [State.passQuiet_of_nil he]
    simp [step, he, runOn, hn, ha]
  · obtain ⟨es, hes⟩ : ∃ es, s.events = .quiet :: es := by
      cases hc : s.events <;> simp_all
    rw [State.passQuiet_of_quiet hes]
    simp [step, hes, runOn, hn, ha]

/-- Everything an event can do when the run goes on. -/
theorem takeEvent_next {e : Event} {s u : State} (h : takeEvent e s = .next u) :
    (e = .reset ∧ u = s.afterReset) ∨ (e = .smi ∧ s.smiHonoured = false ∧ u = s) ∨
      (e = .nmi ∧ s.nmiRecognized = false ∧ u = s.holdNmi) ∨
      (e = .suspendRequest ∧ u = if s.suspHonoured then s.setActivity (.suspended .pin) else s) ∨
      (∃ env, e = .environment env ∧ u = s.setEnv env) ∨ (e = .quiet ∧ u = s) := by
  cases e with
  | quiet =>
    simp only [takeEvent, Host.Outcome.next.injEq] at h
    exact .inr (.inr (.inr (.inr (.inr ⟨rfl, h.symm⟩))))
  | reset => simp only [takeEvent, Host.Outcome.next.injEq] at h; exact .inl ⟨rfl, h.symm⟩
  | smi =>
    simp only [takeEvent] at h
    split at h
    · rename_i hs
      simp only [Host.Outcome.next.injEq] at h
      exact .inr (.inl ⟨rfl, by simpa using hs, h.symm⟩)
    · split at h <;> simp at h
  | nmi =>
    simp only [takeEvent] at h
    split at h
    · simp at h
    · rename_i hs
      simp only [Host.Outcome.next.injEq] at h
      exact .inr (.inr (.inl ⟨rfl, by simpa using hs, h.symm⟩))
  | hardwareInterrupt => simp [takeEvent] at h
  | suspendRequest =>
    refine .inr (.inr (.inr (.inl ⟨rfl, ?_⟩)))
    simp only [takeEvent] at h
    split at h <;> simp_all
  | environment env =>
    simp only [takeEvent, Host.Outcome.next.injEq] at h
    exact .inr (.inr (.inr (.inr (.inl ⟨env, rfl, h.symm⟩))))
  | taskSwitch => simp [takeEvent] at h
  | gateTransfer => simp [takeEvent] at h

end Sys2Proof.Machine
end

