-- ==== Sys2Proof/Laws/PerInstr.lean ====
section
/-! SUPPORT. Facts about every instruction as syntax, one lemma per constructor. -/

namespace Sys2Proof.Laws.EncodeLength

/-- An encoding has 1 to 3 bytes (R141 and the table of 30_encoding.md section 4). -/
def Statement (i : Instr) : Prop := 1 ≤ (encode i).length ∧ (encode i).length ≤ longestInstr

theorem ltr (r : GReg) : Statement (.ltr r) := by unfold Statement encode longestInstr; simp
theorem str (r : GReg) : Statement (.str r) := by unfold Statement encode longestInstr; simp
theorem movR32Dr (r : GReg) (n : DrNum) : Statement (.movR32Dr r n) := by unfold Statement encode longestInstr; simp
theorem movDrR32 (n : DrNum) (r : GReg) : Statement (.movDrR32 n r) := by unfold Statement encode longestInstr; simp
theorem hlt : Statement .hlt := by unfold Statement encode longestInstr; simp
theorem loop (rel : BitVec 8) : Statement (.loop rel) := by unfold Statement encode longestInstr; simp
theorem cpuid : Statement .cpuid := by unfold Statement encode longestInstr; simp
theorem int3 : Statement .int3 := by unfold Statement encode longestInstr; simp
theorem outImmAl (port : BitVec 8) : Statement (.outImmAl port) := by unfold Statement encode longestInstr; simp
theorem inAlImm (port : BitVec 8) : Statement (.inAlImm port) := by unfold Statement encode longestInstr; simp
theorem outDxAl : Statement .outDxAl := by unfold Statement encode longestInstr; simp
theorem inAlDx : Statement .inAlDx := by unfold Statement encode longestInstr; simp
theorem movR8Imm (r : Reg8) (imm : BitVec 8) : Statement (.movR8Imm r imm) := by unfold Statement encode longestInstr; simp
theorem movR8R8 (d s : Reg8) : Statement (.movR8R8 d s) := by unfold Statement encode longestInstr; simp

end Sys2Proof.Laws.EncodeLength
end

