-- ==== Sys2Proof/Tests/Slice0.lean ====
section
/-! SUPPORT. Small tests, each about one word, one operation or one step, with the expected values of
95_test_vectors.md (section 2 unless a rule is named), and a witness for every statement that has hypotheses. -/

namespace Sys2Proof.Machine

/-- The state with one configuration register holding a byte. -/
def State.withCfg (s : State) (i v : BitVec 8) : State := s.setCfg (configStore s.cfg i v)

/-- Protected mode at a privilege level. -/
def State.protectedAt (s : State) (level : BitVec 2) : State :=
  s.setEnv { s.env with protectedMode := true, cpl := level }

end Sys2Proof.Machine

namespace Sys2Proof.Tests

open Sys2Proof
open Sys2Proof.Machine

/-! ### Well-formed instructions -/

theorem test_mov_from_dr4_ill_formed : Instr.wellFormed (.movR32Dr .a .dr4) = false := by decide
theorem test_mov_to_dr5_ill_formed : Instr.wellFormed (.movDrR32 .dr5 .a) = false := by decide
theorem test_mov_from_dr6_well_formed : Instr.wellFormed (.movR32Dr .a .dr6) = true := by decide

/-! ### Decoding: the words of section 2.7, written out from the encodings of 30_encoding.md, and the number of each in the
opcode table, first byte in the highest place and in the lowest -/

/-- LTR AX: 0F 00, ModRM 11 011 000. -/
theorem test_decode_ltr :
    decodeTableWord 24 0b000011110000000011011000 = some (.ltr .a) ∧ decodeTableWord 24 0xD8000F = some (.ltr .a) := by decide
/-- STR BX: 0F 00, ModRM 11 001 011. -/
theorem test_decode_str :
    decodeTableWord 24 0b000011110000000011001011 = some (.str .b) ∧ decodeTableWord 24 0xCB000F = some (.str .b) := by decide
/-- MOV EBX, DR6: 0F 21, ModRM 11 110 011. -/
theorem test_decode_mov_from_dr :
    decodeTableWord 24 0b000011110010000111110011 = some (.movR32Dr .b .dr6) ∧
    decodeTableWord 24 0xF3210F = some (.movR32Dr .b .dr6) := by decide
/-- MOV DR0, ECX: 0F 23, ModRM 11 000 001. -/
theorem test_decode_mov_to_dr :
    decodeTableWord 24 0b000011110010001111000001 = some (.movDrR32 .dr0 .c) ∧
    decodeTableWord 24 0xC1230F = some (.movDrR32 .dr0 .c) := by decide
theorem test_decode_hlt : decodeTableWord 8 0b11110100 = some .hlt := by decide
/-- LOOP with rel8 = 10h, in both byte orders. -/
theorem test_decode_loop :
    decodeTableWord 16 0b1110001000010000 = some (.loop 0x10#8) ∧ decodeTableWord 16 0x10E2 = some (.loop 0x10#8) := by decide
theorem test_decode_cpuid :
    decodeTableWord 16 0b0000111110100010 = some .cpuid ∧ decodeTableWord 16 0xA20F = some .cpuid := by decide
theorem test_decode_int3 : decodeTableWord 8 0b11001100 = some .int3 := by decide
theorem test_decode_out_imm :
    decodeTableWord 16 0b1110011000100010 = some (.outImmAl 0x22#8) ∧ decodeTableWord 16 0x22E6 = some (.outImmAl 0x22#8) := by
  decide
theorem test_decode_in_imm :
    decodeTableWord 16 0b1110010000100011 = some (.inAlImm 0x23#8) ∧ decodeTableWord 16 0x23E4 = some (.inAlImm 0x23#8) := by
  decide
theorem test_decode_out_dx : decodeTableWord 8 0b11101110 = some .outDxAl := by decide
theorem test_decode_in_dx : decodeTableWord 8 0b11101100 = some .inAlDx := by decide
/-- MOV BH, 01h: 10110 111, then the immediate. -/
theorem test_decode_mov_imm :
    decodeTableWord 16 0b1011011100000001 = some (.movR8Imm .bh 0x01#8) ∧
    decodeTableWord 16 0x01B7 = some (.movR8Imm .bh 0x01#8) := by decide
/-- MOV BH, AL: 88, ModRM 11 000 111. -/
theorem test_decode_mov_reg :
    decodeTableWord 16 0b1000100011000111 = some (.movR8R8 .bh .al) ∧ decodeTableWord 16 0xC788 = some (.movR8R8 .bh .al) := by
  decide
/-- NOP is not in the table, and LTR with a memory operand is not admitted. -/
theorem test_decode_refuses : decodeTableWord 8 0x90 = none ∧ decodeTableWord 24 0x0F0018 = none := by decide

/-! ### Small states and what an outcome holds -/

/-- The common start state of section 3: the reset state with the program's bytes at 0100h upward. -/
def start (bytes : List Byte) : State :=
  State.storeBytes { State.reset with pc := 0x100#32, env := { Environment.reset with csBase := 0#32 } } 0x100 bytes

/-- A descriptor that stands for the TSS descriptor of the vectors of section 2.2. -/
def tssDescriptor : BitVec 64 := 0x0000890040000067#64

/-- A GDT with that descriptor at 2000h, and with another that is no TSS descriptor at 2008h. -/
def tssWindow (s : State) : State :=
  { s with
    env := { s.env with gdt := [(0x0028#16, 0x2000#32), (0x002C#16, 0x2000#32), (0x0030#16, 0x2008#32)]
                        tssDescriptors := [(tssDescriptor, .tss32)] }
    mem := [(0x2000, 0x67#8), (0x2001, 0x00#8), (0x2002, 0x00#8), (0x2003, 0x40#8),
      (0x2004, 0x00#8), (0x2005, 0x89#8), (0x2006, 0x00#8), (0x2007, 0x00#8),
      (0x2008, 0x67#8), (0x2009, 0x00#8), (0x200A, 0x00#8), (0x200B, 0x40#8),
      (0x200C, 0x00#8), (0x200D, 0x93#8), (0x200E, 0x00#8), (0x200F, 0x00#8)] }

/-- Whether an outcome goes on, to a state with a property. -/
def goesOn (o : Result State) (p : State → Bool) : Bool :=
  match o with
  | .next t => p t
  | .fault _ => false
  | .refused _ => false

theorem exists_of_goesOn {o : Result State} {p : State → Bool} (h : goesOn o p = true) : ∃ t, o = .next t ∧ p t = true := by
  cases o with
  | next t => exact ⟨t, rfl, h⟩
  | fault r => exact absurd h (by simp [goesOn])
  | refused r => exact absurd h (by simp [goesOn])

/-- Whether an outcome is an exception, with a program counter and a state that have a property. -/
def raises (o : Result State) (x : ExceptionName) (p : BitVec 32 → State → Bool) : Bool :=
  match o with
  | .fault (.exception y _ pc u) => decide (x = y) && p pc u
  | _ => false

/-- The refusal of an outcome, if it is one. -/
def refusal (o : Result State) : Option Refusal :=
  match o with
  | .refused r => some r
  | _ => none

/-! ### The instructions, one step each -/

/-- Vector 1 of LTR. -/
theorem test_ltr_loads :
    goesOn (exec (.ltr .a) (((tssWindow (start [])).protectedAt 0#2).setReg32 .a 0x0028#32))
      (fun t => t.trSelector == 0x0028#16 && t.trHidden == tssDescriptor && t.pc == 0x103#32) = true := by decide
/-- Vectors 4 and 7 of LTR. -/
theorem test_ltr_traps :
    raises (exec (.ltr .a) (((tssWindow (start [])).protectedAt 0#2).setReg32 .a 0x002C#32)) .generalProtection
      (fun pc _ => pc == 0x100#32) = true ∧
    raises (exec (.ltr .a) ((start []).setEnv { (start []).env with cpl := 3#2 })) .invalidOpcode
      (fun pc _ => pc == 0x100#32) = true := by decide
/-- Vector 5 of LTR and STR: level 3, the high half of EBX kept. -/
theorem test_str_stores :
    goesOn (exec (.str .b) ((((start []).protectedAt 3#2).loadTr 0x0028#16 tssDescriptor).setReg32 .b 0xAAAA5555#32))
      (fun t => t.reg32 .b == 0xAAAA0028#32 && t.pc == 0x103#32) = true := by decide
/-- Vector 6, where the model departs from the spec's refusal (assumption log 27): the selector of reset is stored. -/
theorem test_str_before_load :
    goesOn (exec (.str .b) (((start []).protectedAt 0#2).setReg32 .b 0xAAAA5555#32))
      (fun t => t.reg32 .b == 0xAAAA0000#32 && t.pc == 0x103#32) = true := by decide
/-- R312, event 12 of section 2.5: only the named bits of DR6 are kept. -/
theorem test_mov_to_dr6 :
    goesOn (exec (.movDrR32 .dr6 .a) ((start []).setReg32 .a 0xFFFFFFFF#32))
      (fun t => t.dr6 == 0x0000C00F#32 && t.pc == 0x103#32) = true := by decide
/-- Events 9 and 11 of section 2.5. -/
theorem test_mov_to_dr_traps :
    raises (exec (.movDrR32 .dr7 .a) ((start []).protectedAt 3#2)) .generalProtection (fun pc _ => pc == 0x100#32) = true ∧
    refusal (exec (.movDrR32 .dr4 .a) ((start []).protectedAt 3#2)) = some (.debugRegisterNumber .dr4) := by decide
/-- R313: an address register reads as written. -/
theorem test_mov_from_dr2 :
    goesOn (exec (.movR32Dr .di .dr2) ((start []).setDr 2 0x12345678#32)) (fun t => t.reg32 .di == 0x12345678#32) = true := by
  decide
/-- Event 8 of section 2.5. -/
theorem test_gd_stops_mov :
    raises (exec (.movR32Dr .a .dr7) ((start []).setDr7 0x00002000#32)) .debug
      (fun pc u => pc == 0x100#32 && u.dr7 == 0#32 && u.dr6 == 0#32 && u.reg32 .a == 0#32) = true := by decide
/-- Vectors 9 and 10 of section 2.6. -/
theorem test_hlt :
    goesOn (exec .hlt (start [])) (fun t => t.activity == .halted && t.pc == 0x100#32) = true ∧
    goesOn (exec .hlt ((start []).withCfg 0xC2#8 0x08#8)) (fun t => t.activity == .suspended .hlt) = true := by decide
/-- Vectors 3 and 5 of section 2.6. -/
theorem test_loop_taken :
    goesOn (exec (.loop 0xFE#8) (start [])) (fun t => t.reg16 .c == 0xFFFF#16 && t.pc == 0x100#32) = true ∧
    goesOn (exec (.loop 0x80#8) ((start []).setReg32 .c 2#32)) (fun t => t.reg16 .c == 1#16 && t.pc == 0x82#32) = true := by
  decide
/-- Vector 7 of section 2.6: the high half of ECX is untouched and the loop falls through. -/
theorem test_loop_falls_through :
    goesOn (exec (.loop 0xFE#8) ((start []).setReg32 .c 0x00010001#32))
      (fun t => t.reg32 .c == 0x00010000#32 && t.pc == 0x102#32) = true := by decide
/-- Vectors 11 and 12 of section 2.6. -/
theorem test_cpuid :
    raises (exec .cpuid (start [])) .invalidOpcode (fun pc _ => pc == 0x100#32) = true ∧
    refusal (exec .cpuid ((start []).withCfg 0xE8#8 0x85#8)) = some .cpuidResults := by decide
/-- Event 14 of section 2.5. -/
theorem test_int3 : raises (step (start [0xCC#8])) .breakpoint (fun pc u => pc == 0x101#32 && u.dr6 == 0#32) = true := by decide
/-- The example of R240, run as a step. -/
theorem test_out_imm_selects :
    goesOn (step ((start [0xE6#8, 0x22#8]).setReg32 .a 0xC3#32))
      (fun t => t.cfgIndex == 0xC3#8 && t.cfgArmed && t.pc == 0x102#32) = true := by decide
/-- Vector 34 of section 2.3: with SMI_LOCK only NO_LOCK is stored. -/
theorem test_out_locked :
    goesOn (exec (.outImmAl 0x23#8) ((((start []).withCfg 0xC3#8 0x01#8).select 0xC1#8).setReg32 .a 0x96#32))
      (fun t => configByte t.cfg 0xC1#8 == 0x10#8 && !t.cfgArmed) = true := by decide
/-- The example of R242. -/
theorem test_out_dx :
    goesOn (exec .outDxAl ((((start []).select 0xC0#8).setReg32 .a 2#32).setReg32 .d 0x23#32))
      (fun t => configByte t.cfg 0xC0#8 == 0x02#8 && t.ioCycles == [] && t.pc == 0x101#32) = true := by decide
/-- DX = 0122h is not port 22h (R242, D3). -/
theorem test_out_dx_full_width :
    goesOn (exec .outDxAl ((start []).setReg32 .d 0x0122#32))
      (fun t => t.ioCycles == [.write 0x0122#16 0#8] && !t.cfgArmed) = true := by decide
/-- Vector 8 of section 2.3: CCR4 after reset is 05h, read with MAPEN = 1h. -/
theorem test_in_imm_reads :
    goesOn (exec (.inAlImm 0x23#8) (((start []).withCfg 0xC3#8 0x10#8).select 0xE8#8))
      (fun t => t.reg8 .al == 0x05#8 && !t.cfgArmed && t.ioCycles == []) = true := by decide
/-- Vectors 24 and 29 of section 2.3. -/
theorem test_in_imm_refused :
    refusal (exec (.inAlImm 0x22#8) ((start []).select 0xC3#8)) = some .port22ReadWhileArmed ∧
    refusal (exec (.inAlImm 0x23#8) (((start []).withCfg 0xC3#8 0x20#8).select 0xE8#8)) = some (.mapenUndefined 2#4) := by
  decide
/-- Vector 3 of section 2.3 through DX: external, one cycle, nothing selected. -/
theorem test_in_dx_external :
    goesOn (exec .inAlDx ((start []).setReg32 .d 0x23#32)) (fun t => t.ioCycles.length == 1 && !t.cfgArmed) = true := by decide
/-- `B7 01`: BH alone. -/
theorem test_mov_imm :
    goesOn (step ((start [0xB7#8, 0x01#8]).setReg32 .b 0xAABBCCDD#32))
      (fun t => t.reg32 .b == 0xAABB01DD#32 && t.pc == 0x102#32) = true := by decide
/-- `88 C7`: MOV BH, AL. -/
theorem test_mov_reg :
    goesOn (step (((start [0x88#8, 0xC7#8]).setReg32 .a 0x11223344#32).setReg32 .b 0xAABBCCDD#32))
      (fun t => t.reg32 .b == 0xAABB44DD#32 && t.reg32 .a == 0x11223344#32) = true := by decide
/-- An instruction of the opcode table runs as the first one after reset. -/
theorem test_first_after_reset :
    goesOn (step (State.reset.withFetchWord 16 0xB0C3)) (fun t => t.reg8 .al == 0xC3#8 && t.pc == 0xFFF2#32) = true := by decide

/-! ### Configuration registers, regions, memory -/

/-- Vectors 15, 17 and 30 of section 2.3: reserved bits. -/
theorem test_reserved_bits :
    refusal (configWrite (start []) 0xC0#8 0x01#8) = some (.reservedBitWritten 0xC0#8) ∧
    refusal (configWrite (start []) 0xC2#8 0x01#8) = some (.reservedBitWritten 0xC2#8) ∧
    refusal (configWrite (start []) 0xC3#8 0x08#8) = some (.reservedBitWritten 0xC3#8) := by decide
/-- Vectors 31, 33 and 39 of section 2.3: SMI_LOCK. -/
theorem test_smi_lock :
    goesOn (configWrite (start []) 0xC3#8 0x03#8) (fun t => configByte t.cfg 0xC3#8 == 0x03#8) = true ∧
    goesOn (configWrite ((start []).withCfg 0xC3#8 0x01#8) 0xC3#8 0x14#8) (fun t => configByte t.cfg 0xC3#8 == 0x15#8) = true ∧
    goesOn (configWrite (((start []).withCfg 0xC3#8 0x01#8).setEnv { (start []).env with smm := true }) 0xC3#8 0x00#8)
      (fun t => configByte t.cfg 0xC3#8 == 0x01#8) = true := by decide

/-- The configuration of program P2: region 0 is 128 KBytes at 000C0000h, non-cacheable. -/
def regionConfig : ConfigFile :=
  configStore (configStore (configStore (configStore ConfigFile.reset 0xC5#8 0x0C#8) 0xC6#8 0x06#8) 0xDC#8 0x01#8) 0xE9#8 0x20#8

/-- The end state of program P2: 000C0000h and 000DFFFFh are non-cacheable, their neighbours are cached. -/
theorem test_region_bounds :
    (resolveAttributes true regionConfig true true 0xC0000).cached = false ∧
    (resolveAttributes true regionConfig true true 0xDFFFF).cached = false ∧
    (resolveAttributes true regionConfig true true 0xBFFFF).cached = true ∧
    (resolveAttributes true regionConfig true true 0xE0000).cached = true := by decide
/-- R297: the pins are those of the access, the fetch first; with no sample left they are the levels. -/
theorem test_pins_per_access :
    (((start []).setEnv { (start []).env with samples := [⟨true, true⟩, ⟨false, true⟩] }).fetchAttributes.map (·.cached)).toOption =
      some true ∧
    (((start []).setEnv { (start []).env with samples := [⟨true, true⟩, ⟨false, true⟩] }).attributes 0x1000).toOption.map (·.cached) =
      some false ∧
    (((start []).setEnv { (start []).env with samples := [⟨false, false⟩] }).attributes 0x1000).toOption.map (·.cached) =
      some true := by decide
/-- R111, R127: a locked cycle is cached under weak locking only, a page table access never. -/
theorem test_locked_cycles (t : Attributes) :
    { t with cached := true, weakLock := false }.cycleCached .locked = false ∧
    { t with cached := true, weakLock := true }.cycleCached .locked = true ∧
    { t with cached := true, weakLock := true }.cycleCached .pageTable = false := ⟨rfl, rfl, rfl⟩
/-- R119: with CR0.CD = 1 weak ordering reaches an address that was cached earlier, and no other. -/
theorem test_weak_order_reach :
    { start [] with cr0 := 0x40000000#32 }.mayReorder ⟨true, true, true, false, false, true, true, false⟩ true = true ∧
    { start [] with cr0 := 0x40000000#32 }.mayReorder ⟨true, true, true, false, false, true, true, false⟩ false = false := by
  decide
/-- Table 2-18, its first, last and Fh rows in both columns. -/
theorem test_block_sizes :
    blockSize 0 1#4 = 4096 ∧ blockSize 7 1#4 = 256 * 1024 ∧ blockSize 6 14#4 = 32 * 1024 * 1024 ∧
    blockSize 7 14#4 = 2 * 1024 * 1024 * 1024 ∧ blockSize 3 15#4 = 4 * 1024 * 1024 * 1024 := by decide
/-- 000D0000h with a block of 128 KBytes is not on a block boundary. -/
theorem test_misaligned_region : regionUnaligned (configStore regionConfig 0xC5#8 0x0D#8) 0 = true := by decide
/-- D1: bits 7:0 at the lowest address. -/
theorem test_little_endian : leBytes 4 0x00081000#32 = [0x00#8, 0x10#8, 0x08#8, 0x00#8] := by decide

/-! ### Gates, Task State Segments, breakpoints -/

/-- R179 through memory: the descriptor at 2000h of the vectors of section 2.2, and the refusal of a misaligned one. -/
theorem test_gate_in_memory :
    goesOn (andThen ((tssWindow (start [])).gateAt 0x2000#32) fun g => .next { g.2 with gpr := g.2.gpr.set 0 g.1.offset })
      (fun t => t.reg32 .a == 0x00000067#32 && t.accesses.length == 2) = true ∧
    refusal (andThen ((tssWindow (start [])).gateAt 0x2002#32) fun g => .next g.2) = some (.misalignedAccess 0x2002#32) := by
  decide
/-- Gate vectors 1, 10, 11 and 13 of section 2.1. -/
theorem test_gate_decode :
    gateFields 0x00081000#32 0x0040EC02#32 = ⟨0x00401000#32, 0x0008#16, true, 3#2, false, 0xC#4, 0#3, 2#5⟩ ∧
    (gateFields 0x00081000#32 0x0040ECE2#32).kind = some .callGate32 ∧
    (gateFields 0x00081000#32 0x0040FC02#32).kind = none ∧ (gateFields 0x00081000#32 0x00408D00#32).kind = none := by decide
/-- Gate vector 4: the bytes of a 32-bit interrupt gate. -/
theorem test_gate_bytes :
    (⟨0xC0002000#32, 0x0008#16, true, 0#2, false, 0xE#4, 0#3, 0#5⟩ : Gate).bytes =
      [0x00#8, 0x20#8, 0x08#8, 0x00#8, 0x00#8, 0x8E#8, 0x00#8, 0xC0#8] := by decide
/-- Section 2.2: the row at +64h with T = 1 and an I/O map base of 0068h, and BP of the 16-bit TSS at +1Ch. -/
theorem test_tss_places :
    Tss32Field.get .tBit 0x00680001#32 = 1#32 ∧ Tss32Field.get .ioMapBase 0x00680001#32 = 0x0068#32 ∧
    Tss16Field.offset .bp = 0x1C := by decide

/-- DR0 = 1000h, DR7 = 000D0001h: the state of the matching table of section 2.5. -/
def watching : State := ((start []).setDr 0 0x1000#32).setDr7 0x000D0001#32

/-- An access with the default attributes. -/
def access (a : BitVec 32) (w : Width) (k : AccessKind) : Access :=
  ⟨a, w, k, false, ⟨true, true, true, false, false, false, true, false⟩⟩

/-- The matching table of section 2.5, without its one row of a width no access here has. -/
theorem test_breakpoint_matching :
    bpMatchesAccess watching 0 (access 0x1002#32 .word .write) = true ∧
    bpMatchesAccess watching 0 (access 0xFFD#32 .dword .write) = true ∧
    bpMatchesAccess watching 0 (access 0xFFC#32 .dword .write) = false ∧
    bpMatchesAccess watching 0 (access 0x1004#32 .byte .write) = false ∧
    bpMatchesAccess watching 0 (access 0x1000#32 .dword .read) = false := by decide
/-- Event 5 of section 2.5. -/
theorem test_task_switch_clears_local :
    goesOn (taskSwitchDebugEffects false ((start []).setDr7 0x0F#32)) (fun t => t.dr7 == 0x0A#32) = true := by decide
/-- Event 6 of section 2.5. -/
theorem test_single_step :
    raises (step { start [0xB0#8, 0x55#8] with eflags := 0x102#32 }) .debug
      (fun pc u => pc == 0x102#32 && u.reg8 .al == 0x55#8 && u.dr6 == 0x4000#32) = true := by decide
/-- R326, R270: the single step over HLT reports the byte after it, and the CPU is halted at the HLT. -/
theorem test_single_step_over_hlt :
    raises (step { start [0xF4#8] with eflags := 0x102#32 }) .debug
      (fun pc u => pc == 0x101#32 && u.activity == .halted && u.pc == 0x100#32 && u.dr6 == 0x4000#32) = true := by decide
/-- Event 4 of section 2.5. -/
theorem test_execution_breakpoint :
    raises (step (((start [0xB0#8, 0x55#8]).setDr 2 0x100#32).setDr7 0x20#32)) .debug
      (fun pc u => pc == 0x100#32 && u.dr6 == 0x4#32 && u.reg8 .al == 0#8) = true := by decide

/-- R365: an event that arrives between two instructions. NMI after MOV AL, 55h, and not before it. -/
theorem test_event_between_instructions :
    goesOn (step ((start [0xB0#8, 0x55#8]).setEvents [.quiet, .nmi]))
      (fun t => t.reg8 .al == 0x55#8 && t.events == [.nmi]) = true := by decide

/-! ### Witnesses: for every statement with hypotheses, a state and operands that meet them together, a boundary of each
clause among them -/

theorem exists_of_raises {o : Result State} {x : ExceptionName} {p : BitVec 32 → State → Bool} (h : raises o x p = true) :
    ∃ k pc u, o = .fault (.exception x k pc u) ∧ p pc u = true := by
  unfold raises at h
  split at h
  · rename_i y k pc u
    simp only [Bool.and_eq_true, decide_eq_true_eq] at h
    exact ⟨k, pc, u, by rw [h.1], h.2⟩
  · exact absurd h (by simp)

/-- MOV AL, 55h at the program counter. -/
def moving : State := start [0xB0#8, 0x55#8]

theorem test_witness_DecodedBytesAreTheEncoding :
    decode [0xB0#8, 0xC3#8, 0xF4#8] = .ok (.movR8Imm .al 0xC3#8, [0xF4#8]) := rfl

theorem test_witness_UnadmittedFormsAreRejected :
    modField 0x18#8 ≠ 3#2 ∧ regField 0x18#8 = 3#3 ∧ modField 0x88#8 ≠ 3#2 ∧ regField 0x88#8 = 1#3 ∧
    regField 0xC0#8 ≠ 1#3 ∧ regField 0xC0#8 ≠ 3#3 := by decide

theorem moving_ready : readyToRun moving := ⟨.inl rfl, rfl, rfl⟩

/-- MOV AL, 55h at a quiet boundary, with an NMI to come after it. -/
def movingQuiet : State := moving.setEvents [.quiet, .nmi]
theorem movingQuiet_ready : readyToRun movingQuiet := ⟨.inr rfl, rfl, rfl⟩
theorem moving_aligned : regionsAligned moving.cfg := by unfold regionsAligned; decide
theorem moving_before : moving.beforeInstruction = .next moving.clearAccesses := rfl
theorem moving_decodes : decode moving.fetchBytes.1 = .ok (.movR8Imm .al 0x55#8, []) := rfl

theorem moving_passQuiet : moving = moving.passQuiet := (State.passQuiet_of_nil rfl).symm
theorem movingQuiet_passQuiet : movingQuiet.setEvents [.nmi] = movingQuiet.passQuiet := (State.passQuiet_of_quiet rfl).symm
theorem movingQuiet_aligned : regionsAligned movingQuiet.cfg := by unfold regionsAligned; decide
theorem movingQuiet_before :
    (movingQuiet.setEvents [.nmi]).beforeInstruction = .next (movingQuiet.setEvents [.nmi]).clearAccesses := rfl
theorem movingQuiet_decodes : decode (movingQuiet.setEvents [.nmi]).fetchBytes.1 = .ok (.movR8Imm .al 0x55#8, []) := rfl

theorem test_witness_StepRunsTheDecodedInstruction :
    (readyToRun moving ∧ moving = moving.passQuiet ∧ moving.beforeInstruction = .next moving.clearAccesses ∧
      regionsAligned moving.cfg ∧ decode moving.fetchBytes.1 = .ok (.movR8Imm .al 0x55#8, [])) ∧
    (readyToRun movingQuiet ∧ movingQuiet.setEvents [.nmi] = movingQuiet.passQuiet ∧
      (movingQuiet.setEvents [.nmi]).beforeInstruction = .next (movingQuiet.setEvents [.nmi]).clearAccesses ∧
      regionsAligned movingQuiet.cfg ∧
      decode (movingQuiet.setEvents [.nmi]).fetchBytes.1 = .ok (.movR8Imm .al 0x55#8, [])) :=
  ⟨⟨moving_ready, moving_passQuiet, moving_before, moving_aligned, moving_decodes⟩,
    movingQuiet_ready, movingQuiet_passQuiet, movingQuiet_before, movingQuiet_aligned, movingQuiet_decodes⟩

theorem test_witness_StepWithoutBreakpointsIsExec :
    readyToRun moving ∧ moving = moving.passQuiet ∧ moving.tf = false ∧ moving.dr7 &&& 0x000000FF#32 = 0#32 ∧
    regionsAligned moving.cfg ∧ decode moving.fetchBytes.1 = .ok (.movR8Imm .al 0x55#8, []) :=
  ⟨moving_ready, moving_passQuiet, rfl, rfl, moving_aligned, moving_decodes⟩

theorem test_witness_StepRefusesOtherBytes :
    readyToRun (start [0x90#8]) ∧ start [0x90#8] = (start [0x90#8]).passQuiet ∧
    (start [0x90#8]).beforeInstruction = .next (start [0x90#8]).clearAccesses ∧
    regionsAligned (start [0x90#8]).cfg ∧ decode (start [0x90#8]).fetchBytes.1 = .error .outsideSpec ∧
    DecodeError.outsideSpec ≠ .truncated :=
  ⟨⟨.inl rfl, rfl, rfl⟩, (State.passQuiet_of_nil rfl).symm, rfl, by unfold regionsAligned; decide, rfl, by decide⟩

theorem test_witness_ConfigurationAfterReset :
    (moving.setEvents [.reset]).events = [.reset] ∧ ∃ s, step (moving.setEvents [.reset]) = .next s := ⟨rfl, _, rfl⟩

theorem test_witness_ResetPinLeavesNoSelection :
    ((moving.select 0xC3#8).setEvents [.reset, .nmi]).events = [.reset, .nmi] := rfl

theorem moving_inv : Inv moving := ⟨by decide, by decide, by decide, by decide, by unfold configClean; decide⟩

theorem test_witness_StepKeepsTheInvariant : Inv moving ∧ ∃ t, step moving = .next t :=
  ⟨moving_inv, (exists_of_goesOn (p := fun _ => true) (by decide)).imp fun _ h => h.1⟩

/-- SMI_LOCK = 1 outside an SMI service routine, with CCR1 selected and OUT 23h, AL to run with AL = 96h. -/
def locked : State := (((start [0xE6#8, 0x23#8]).withCfg 0xC3#8 0x01#8).select 0xC1#8).setReg32 .a 0x96#32

theorem locked_goes_on : ∃ t, step locked = .next t :=
  (exists_of_goesOn (p := fun _ => true) (by decide)).imp fun _ h => h.1

theorem test_witness_SmiLockIsClearedByResetOnly :
    (∃ t, configWrite moving 0xC3#8 0x03#8 = .next t) ∧
    (smiLock locked.cfg = true ∧ locked.events.head? ≠ some .reset ∧ ∃ t, step locked = .next t) ∧
    ((locked.setEvents [.reset]).events.head? = some .reset ∧ ∃ t, step (locked.setEvents [.reset]) = .next t) :=
  ⟨⟨_, rfl⟩, ⟨by decide, by decide, locked_goes_on⟩, rfl, _, rfl⟩

theorem test_witness_LockedBitsChangeOnlyInSmm :
    smiLock locked.cfg = true ∧ locked.env.smm = false ∧ locked.events.head? ≠ some .reset ∧ ∃ t, step locked = .next t :=
  ⟨by decide, by decide, by decide, locked_goes_on⟩

theorem test_witness_OnlyThePlatformChangesTheMode :
    (∀ e, locked.events.head? ≠ some (.environment e)) ∧ ∃ t, step locked = .next t :=
  ⟨fun e h => by rw [show locked.events.head? = none from rfl] at h; exact absurd h (by simp), locked_goes_on⟩

theorem test_witness_OnlyLtrChangesTheTaskRegister :
    (∀ r, Instr.outDxAl ≠ .ltr r) ∧ ∃ t, exec .outDxAl moving = .next t := ⟨fun _ => by simp, _, rfl⟩

theorem test_witness_InstructionsLeaveMemoryAndSystemRegisters :
    ∃ t, exec (.ltr .a) (((tssWindow (start [])).protectedAt 0#2).setReg32 .a 0x0028#32) = .next t :=
  (exists_of_goesOn test_ltr_loads).imp fun _ h => h.1

theorem test_witness_OnlyMovChangesTheDebugRegisters :
    ((∀ n r, Instr.movR32Dr .a .dr6 ≠ .movDrR32 n r) ∧ ∃ t, exec (.movR32Dr .a .dr6) moving = .next t) ∧
    (∃ t, exec (.movDrR32 .dr3 .a) moving = .next t) ∧ DrNum.dr3 ≠ .dr6 ∧ DrNum.dr3 ≠ .dr7 ∧
    drAddress .dr6 ≠ some 0 ∧ drAddress .dr0 ≠ some 3 ∧ drAddress .dr3 ≠ some 2 :=
  ⟨⟨fun _ _ => by simp, _, rfl⟩, ⟨_, rfl⟩, by decide, by decide, by decide, by decide, by decide⟩

theorem test_witness_OnlyPort23WritesChangeTheConfiguration :
    ∃ t, exec (.outImmAl 0x23#8) ((moving.select 0xC0#8).setReg32 .a 2#32) = .next t ∧
      t.cfg ≠ ((moving.select 0xC0#8).setReg32 .a 2#32).cfg := ⟨_, rfl, by decide⟩

/-- AX names the TSS descriptor at 2000h, at level 0 of protected mode. -/
def loading : State := ((tssWindow (start [])).protectedAt 0#2).setReg32 .a 0x0028#32

theorem test_witness_LtrLoadsTheTaskRegister :
    loading.env.protectedMode = true ∧ loading.env.cpl = 0#2 ∧ (loading.reg16 .a).getLsbD 2 = false ∧
    loading.gdtEntry (loading.reg16 .a) = some 0x2000#32 ∧ (0x2000#32).toNat % 4 = 0 ∧ (0x2000#32).toNat + 8 ≤ 2 ^ 32 ∧
    regionsAligned loading.cfg ∧ loading.loadBytes (0x2000#32).toNat 4 = .ok [0x67#8, 0x00#8, 0x00#8, 0x40#8] ∧
    loading.loadBytes ((0x2000#32).toNat + 4) 4 = .ok [0x00#8, 0x89#8, 0x00#8, 0x00#8] ∧
    (loading.tssKindOf (leValue [0x00#8, 0x89#8, 0x00#8, 0x00#8] ++ leValue [0x67#8, 0x00#8, 0x00#8, 0x40#8])).isSome = true :=
  ⟨by decide, by decide, by decide, by decide, by decide, by decide, by unfold regionsAligned; decide, rfl, rfl, by decide⟩

/-- AX names the descriptor at 2008h, which is no TSS descriptor. -/
def loadingOther : State := loading.setReg32 .a 0x0030#32

theorem test_witness_TaskRegisterInstructionsTrap :
    moving.env.protectedMode = false ∧
    ((moving.protectedAt 1#2).env.protectedMode = true ∧ (moving.protectedAt 1#2).env.cpl ≠ 0#2) ∧
    (loading.env.protectedMode = true ∧ loading.env.cpl = 0#2 ∧ ((loading.setReg32 .a 0x002C#32).reg16 .a).getLsbD 2 = true) ∧
    (loading.setReg32 .a 0x0008#32).gdtEntry ((loading.setReg32 .a 0x0008#32).reg16 .a) = none ∧
    (loadingOther.gdtEntry (loadingOther.reg16 .a) = some 0x2008#32 ∧ (0x2008#32).toNat % 4 = 0 ∧
      regionsAligned loadingOther.cfg ∧
      loadingOther.loadBytes (0x2008#32).toNat 4 = .ok [0x67#8, 0x00#8, 0x00#8, 0x40#8] ∧
      loadingOther.loadBytes ((0x2008#32).toNat + 4) 4 = .ok [0x00#8, 0x93#8, 0x00#8, 0x00#8] ∧
      loadingOther.tssKindOf (leValue [0x00#8, 0x93#8, 0x00#8, 0x00#8] ++ leValue [0x67#8, 0x00#8, 0x00#8, 0x40#8]) = none) :=
  ⟨by decide, by decide, by decide, by decide, by decide, by decide, by unfold regionsAligned; decide, rfl, rfl, by decide⟩

theorem test_witness_StrStoresTheSelector :
    ((moving.protectedAt 3#2).loadTr 0x0028#16 tssDescriptor).env.protectedMode = true ∧
    ((moving.protectedAt 0#2).env.protectedMode = true ∧ (moving.protectedAt 0#2).trLoaded = false) := by decide

theorem test_witness_MovToDebugRegisterWrites :
    DrNum.dr0.named = true ∧ DrNum.dr3.named = true ∧ DrNum.dr6.named = true ∧ DrNum.dr7.named = true ∧
    moving.env.cpl = 0#2 ∧ (moving.setDr7 0xFFFFDFFF#32).dr7.getLsbD 13 = false := by decide

theorem test_witness_MovFromDebugRegisterReads :
    drAddress .dr0 = some 0 ∧ drAddress .dr3 = some 3 ∧ DrNum.dr6.named = true ∧ DrNum.dr7.named = true ∧
    moving.env.cpl = 0#2 ∧ moving.dr7.getLsbD 13 = false := by decide

theorem test_witness_DebugRegisterMovesTrap :
    (Instr.movDrR32 .dr4 .a = .movDrR32 .dr4 .a ∧ DrNum.dr4.named = false ∧ DrNum.dr5.named = false) ∧
    (DrNum.dr0.named = true ∧ (moving.protectedAt 1#2).env.cpl ≠ 0#2) ∧
    (DrNum.dr7.named = true ∧ moving.env.cpl = 0#2 ∧ (moving.setDr7 0x2000#32).dr7.getLsbD 13 = true) := by decide

/-- MOV AL, 55h with TF = 1. -/
def stepping : State := { moving with eflags := 0x102#32 }

/-- An execution breakpoint at 0100h, enabled by G2. -/
def breaking : State := (moving.setDr 2 0x100#32).setDr7 0x20#32

theorem exists_of_raises_debug {s : State} (h : raises (step s) .debug (fun _ _ => true) = true) :
    ∃ k pc u, step s = .fault (.exception .debug k pc u) := by
  obtain ⟨k, pc, u, h, -⟩ := exists_of_raises h
  exact ⟨k, pc, u, h⟩

/-- The three places a debug exception comes from: before, in (GD, a MOV of DR7) and after the instruction. -/
theorem test_witness_DebugExceptionClearsGd :
    (∃ k pc u, step (breaking.setDr7 0x2020#32) = .fault (.exception .debug k pc u)) ∧
    (∃ k pc u, step ((start [0x0F#8, 0x23#8, 0xF8#8]).setDr7 0x2000#32) = .fault (.exception .debug k pc u)) ∧
    (∃ k pc u, step (stepping.setDr7 0x2000#32) = .fault (.exception .debug k pc u)) :=
  ⟨exists_of_raises_debug (by decide), exists_of_raises_debug (by decide), exists_of_raises_debug (by decide)⟩

theorem test_witness_ExecutionBreakpointComesFirst :
    readyToRun breaking ∧ (∀ j : Fin 4, breakpointOn breaking.dr7 j → ¬ breakpointUnusable breaking.dr7 j) ∧
    breakpointOn breaking.dr7 2 ∧ instrMeetsBreakpoint breaking 2 :=
  ⟨⟨.inl rfl, rfl, rfl⟩, by unfold breakpointOn breakpointUnusable; decide, by unfold breakpointOn; decide,
    by unfold instrMeetsBreakpoint; decide⟩

theorem test_witness_SingleStepFollowsTheInstruction :
    readyToRun stepping ∧ stepping = stepping.passQuiet ∧ stepping.tf = true ∧ stepping.beforeInstruction = .next stepping.clearAccesses ∧
    regionsAligned stepping.cfg ∧ decode stepping.fetchBytes.1 = .ok (.movR8Imm .al 0x55#8, []) ∧
    ∃ t, exec (.movR8Imm .al 0x55#8) stepping.clearAccesses = .next t :=
  ⟨⟨.inl rfl, rfl, rfl⟩, (State.passQuiet_of_nil rfl).symm, rfl, rfl, by unfold regionsAligned; decide, rfl, _, rfl⟩

/-- HLT with TF = 1. -/
def steppingHlt : State := { start [0xF4#8] with eflags := 0x102#32 }

theorem test_witness_SingleStepFollowsHlt :
    readyToRun steppingHlt ∧ steppingHlt = steppingHlt.passQuiet ∧ steppingHlt.tf = true ∧
    steppingHlt.beforeInstruction = .next steppingHlt.clearAccesses ∧ regionsAligned steppingHlt.cfg ∧
    decode steppingHlt.fetchBytes.1 = .ok (.hlt, []) ∧ (∃ t, exec .hlt steppingHlt.clearAccesses = .next t) ∧
    steppingHlt.pc.toNat + 1 < steppingHlt.pcLimit :=
  ⟨⟨.inl rfl, rfl, rfl⟩, (State.passQuiet_of_nil rfl).symm, rfl, rfl, by unfold regionsAligned; decide, rfl, ⟨_, rfl⟩, by decide⟩

/-- The bytes of a four-byte breakpoint at 1000h, met at its last byte and missed by the byte after it. -/
theorem test_witness_DataBreakpointsAreTakenAfter :
    (access 0x1003#32 .byte .write ∈ (watching.record (access 0x1003#32 .byte .write)).accesses ∧
      breakpointOn watching.dr7 0 ∧ accessMeetsBreakpoint watching 0 (access 0x1003#32 .byte .write) ∧
      watching.activity = .running) ∧
    accessMeetsBreakpoint (watching.setDr7 0x00030002#32) 0 (access 0x1000#32 .byte .read) ∧
    (∀ (i : Fin 4) (a : Access), a ∈ (watching.record (access 0x1004#32 .byte .write)).accesses →
      breakpointOn watching.dr7 i → ¬ accessMeetsBreakpoint watching i a) := by
  refine ⟨⟨by decide, by unfold breakpointOn; decide, ⟨by decide, 4, by decide⟩, rfl⟩, ⟨by decide, 1, by decide⟩, ?_⟩
  rintro i a ha hon ⟨-, n, hn, hlt, -⟩
  rw [show (watching.record (access 0x1004#32 .byte .write)).accesses = [access 0x1004#32 .byte .write] from rfl,
    List.mem_singleton] at ha
  subst ha
  obtain rfl : i = 0 := (by unfold breakpointOn; decide : ∀ i : Fin 4, breakpointOn watching.dr7 i → i = 0) i hon
  obtain rfl : n = 4 := by simpa [show watching.dr7.extractLsb' 18 2 = 3#2 by decide] using hn
  exact absurd hlt (by decide)

/-- Each kind of unusable breakpoint enabled; and an unusable one that is not enabled (R/W0 = 10b) beside an enabled and
usable one (G1, for a write of a byte). -/
theorem test_witness_UnusableBreakpointsAreRefused :
    readyToRun (moving.setDr7 0x00020001#32) ∧
    (breakpointOn (moving.setDr7 0x00020001#32).dr7 0 ∧ breakpointUnusable (moving.setDr7 0x00020001#32).dr7 0) ∧
    (breakpointOn (moving.setDr7 0x00080001#32).dr7 0 ∧ breakpointUnusable (moving.setDr7 0x00080001#32).dr7 0) ∧
    (breakpointOn (moving.setDr7 0xC0000040#32).dr7 3 ∧ breakpointUnusable (moving.setDr7 0xC0000040#32).dr7 3) ∧
    (∃ r, (moving.setDr7 0x00020001#32).beforeInstruction = .refused r) ∧
    breakpointUnusable (moving.setDr7 0x00120008#32).dr7 0 ∧
    (∀ i : Fin 4, breakpointOn (moving.setDr7 0x00120008#32).dr7 i →
      ¬ breakpointUnusable (moving.setDr7 0x00120008#32).dr7 i ∧ ¬ instrMeetsBreakpoint (moving.setDr7 0x00120008#32) i) :=
  ⟨⟨.inl rfl, rfl, rfl⟩, by unfold breakpointOn breakpointUnusable; decide, by unfold breakpointOn breakpointUnusable; decide,
    by unfold breakpointOn breakpointUnusable; decide, ⟨_, rfl⟩, by unfold breakpointUnusable; decide,
    by unfold breakpointOn breakpointUnusable instrMeetsBreakpoint; decide⟩

theorem test_witness_HltEndsTheRun :
    moving.env.protectedMode = false ∧ (moving.protectedAt 0#2).env.cpl = 0#2 ∧
    ((moving.protectedAt 1#2).env.protectedMode = true ∧ (moving.protectedAt 1#2).env.cpl ≠ 0#2) ∧
    ((moving.setActivity .halted).events = [] ∧ (moving.setActivity .halted).nmiPending = false ∧
      (moving.setActivity .halted).activity ≠ .running) ∧
    (moving.setActivity (.suspended .hlt)).activity ≠ .running := by decide

theorem test_witness_LoopCountsInCx :
    moving.env.addrSize = .bits16 ∧ moving.reg16 .c ≠ 1#16 ∧ (moving.setReg32 .c 0xFFFF0001#32).reg16 .c = 1#16 := by decide

/-- The state with 32-bit addresses. -/
def wide : State := moving.setEnv { moving.env with addrSize := .bits32 }

theorem test_witness_LoopCountsInEcx :
    wide.env.addrSize = .bits32 ∧ (wide.setReg32 .c 0x00010001#32).reg32 .c ≠ 1#32 ∧ (wide.setReg32 .c 1#32).reg32 .c = 1#32 := by
  decide

theorem test_witness_CpuidStops :
    (configByte moving.cfg 0xE8#8).getLsbD 7 = false ∧
    (configByte (moving.withCfg 0xE8#8 0x80#8).cfg 0xE8#8).getLsbD 7 = true := by decide

theorem test_witness_Int3RaisesBreakpoint :
    moving.pc.toNat + 1 < moving.pcLimit ∧ (moving.setPc 0xFFFE#32).pc.toNat + 1 < moving.pcLimit := by decide

/-- DX = 22h and DX = 23h, for the forms that take the port from DX. -/
def dx22 : State := moving.setReg32 .d 0x22#32
def dx23 : State := moving.setReg32 .d 0x23#32

theorem test_witness_OutToPort22Selects :
    (writesPort (.outImmAl 0x22#8) moving 0x22#16 2 ∧ portAllowed moving) ∧
    (writesPort .outDxAl dx22 0x22#16 1 ∧ portAllowed (dx22.protectedAt 0#2)) :=
  ⟨⟨.inl ⟨0x22#8, rfl, rfl, rfl⟩, .inl rfl⟩, .inr ⟨rfl, by decide, rfl⟩, .inl rfl⟩

theorem test_witness_OutElsewhereIsExternal :
    (writesPort (.outImmAl 0x24#8) (moving.select 0xC3#8) 0x24#16 2 ∧ portAllowed (moving.select 0xC3#8) ∧
      (0x24#16 : BitVec 16) ≠ 0x22#16 ∧ ((0x24#16 : BitVec 16) = 0x23#16 → (moving.select 0xC3#8).cfgArmed = false)) ∧
    (writesPort .outDxAl dx23 0x23#16 1 ∧ portAllowed dx23 ∧ dx23.cfgArmed = false) :=
  ⟨⟨.inl ⟨0x24#8, rfl, rfl, rfl⟩, .inl rfl, by decide, by decide⟩, .inr ⟨rfl, by decide, rfl⟩, .inl rfl, by decide⟩

/-- CCR3 selected, DX = 23h and AL = 11h. -/
def writing : State := (dx23.select 0xC3#8).setReg32 .a 0x11#32

theorem test_witness_OutToPort23StoresTheRegister :
    writesPort (.outImmAl 0x23#8) writing 0x23#16 2 ∧ writesPort .outDxAl writing 0x23#16 1 ∧ portAllowed writing ∧
    writing.cfgArmed = true ∧ classify writing.cfgIndex (mapen writing.cfg) = .onChip ∧
    (configPlace writing.cfgIndex).isSome = true ∧ writing.reg8 .al &&& reservedMask writing.cfgIndex = 0#8 :=
  ⟨.inl ⟨0x23#8, rfl, rfl, rfl⟩, .inr ⟨rfl, by decide, rfl⟩, .inl rfl, by decide, by decide, by decide, by decide⟩

theorem test_witness_OutToPort23ElsewhereUsesTheSelection :
    writesPort (.outImmAl 0x23#8) (moving.select 0xFE#8) 0x23#16 2 ∧ portAllowed (moving.select 0xFE#8) ∧
    (moving.select 0xFE#8).cfgArmed = true ∧
    (moving.select 0xFE#8).cfgIndex = 0xFE#8 ∧ (moving.select 0xFF#8).cfgIndex = 0xFF#8 ∧
    classify (moving.select 0xD0#8).cfgIndex (mapen moving.cfg) = .external :=
  ⟨.inl ⟨0x23#8, rfl, rfl, rfl⟩, .inl rfl, by decide, by decide, by decide, by decide⟩

theorem test_witness_PortInstructionsRefuse :
    (writesPort (.outImmAl 0x23#8) moving 0x23#16 2 ∧ readsPort (.inAlImm 0x22#8) moving 0x22#16 2) ∧
    ¬ portAllowed (moving.protectedAt 1#2) ∧ (portAllowed moving ∧ (moving.select 0xC3#8).cfgArmed = true) ∧
    classify 0xE8#8 (mapen (moving.withCfg 0xC3#8 0x20#8).cfg) = .undefined ∧
    classify 0xE4#8 (mapen (moving.withCfg 0xC3#8 0x10#8).cfg) = .noRegister ∧
    (classify 0xC0#8 (mapen moving.cfg) = .onChip ∧ (moving.setReg32 .a 1#32).reg8 .al &&& reservedMask 0xC0#8 ≠ 0#8) :=
  ⟨⟨.inl ⟨0x23#8, rfl, rfl, rfl⟩, .inl ⟨0x22#8, rfl, rfl, rfl⟩⟩, by unfold portAllowed; decide, ⟨.inl rfl, by decide⟩, by decide,
    by decide, by decide⟩

theorem test_witness_InElsewhereIsExternal :
    (readsPort (.inAlImm 0x22#8) moving 0x22#16 2 ∧ portAllowed moving ∧ moving.cfgArmed = false) ∧
    (readsPort .inAlDx dx23 0x23#16 1 ∧ portAllowed dx23 ∧ dx23.cfgArmed = false) ∧
    (readsPort (.inAlImm 0x80#8) (moving.select 0xC3#8) 0x80#16 2 ∧
      ((0x80#16 : BitVec 16) = 0x22#16 ∨ (0x80#16 : BitVec 16) = 0x23#16 → (moving.select 0xC3#8).cfgArmed = false)) :=
  ⟨⟨.inl ⟨0x22#8, rfl, rfl, rfl⟩, .inl rfl, by decide⟩, ⟨.inr ⟨rfl, by decide, rfl⟩, .inl rfl, by decide⟩,
    .inl ⟨0x80#8, rfl, rfl, rfl⟩, by decide⟩

theorem test_witness_InFromPort23ReadsTheRegister :
    readsPort .inAlDx writing 0x23#16 1 ∧ portAllowed writing ∧ writing.cfgArmed = true ∧
    classify writing.cfgIndex (mapen writing.cfg) = .onChip ∧ classify 0xFF#8 (mapen writing.cfg) = .onChip :=
  ⟨.inr ⟨rfl, by decide, rfl⟩, .inl rfl, by decide, by decide, by decide⟩

theorem test_witness_InFromPort23ElsewhereUsesTheSelection :
    readsPort (.inAlImm 0x23#8) (moving.select 0xE8#8) 0x23#16 2 ∧ portAllowed (moving.select 0xE8#8) ∧
    (moving.select 0xE8#8).cfgArmed = true ∧ classify (moving.select 0xE8#8).cfgIndex (mapen moving.cfg) = .external ∧
    classify 0xE4#8 (mapen (moving.withCfg 0xC3#8 0x10#8).cfg) = .noRegister :=
  ⟨.inl ⟨0x23#8, rfl, rfl, rfl⟩, .inl rfl, by decide, by decide, by decide⟩

theorem test_witness_OneSelectionBuysOneTransfer :
    ∃ t u, writesPort (.outImmAl 0x23#8) writing 0x23#16 2 ∧ exec (.outImmAl 0x23#8) writing = .next t ∧
      readsPort (.inAlImm 0x23#8) t 0x23#16 2 ∧ exec (.inAlImm 0x23#8) t = .next u :=
  ⟨_, _, .inl ⟨0x23#8, rfl, rfl, rfl⟩, rfl, .inl ⟨0x23#8, rfl, rfl, rfl⟩, rfl⟩

/-- The last index of each range, and the first one past it. -/
theorem test_witness_ClassifyByRanges :
    classify 0xCF#8 0xF#4 = .onChip ∧ classify 0xD0#8 0#4 = .external ∧ classify 0xE3#8 1#4 = .onChip ∧
    classify 0xE4#8 1#4 = .noRegister ∧ classify 0xBF#8 1#4 = .noRegister ∧ classify 0xE9#8 2#4 = .undefined ∧
    classify 0xFE#8 2#4 = .onChip := by decide

/-- A third byte of each of the four kinds, for region 0 and for region 7. -/
theorem test_witness_RegionExtentFromItsBytes :
    (configByte regionConfig 0xC9#8).toNat % 16 = 0 ∧
    (configByte (configStore regionConfig 0xC6#8 0x0F#8) 0xC6#8).toNat % 16 = 15 ∧
    (configByte (configStore regionConfig 0xC6#8 0x0E#8) 0xC6#8).toNat % 16 = 14 ∧
    (configByte (configStore regionConfig 0xDB#8 0x01#8) 0xDB#8).toNat % 16 = 1 := by decide

theorem test_witness_DefaultAttributesOutsideRegions :
    regionsAligned regionConfig ∧ (∀ n, regionHit regionConfig n 0xBFFFF = false) ∧ (∀ n, regionHit regionConfig n 0xE0000 = false) ∧
    ¬ (regionActive regionConfig 7 = true ∧ rcdRce regionConfig 7 = true) ∧ noLock regionConfig = false ∧
    nc1 regionConfig = false ∧ wpr1 regionConfig = false :=
  ⟨by unfold regionsAligned; decide, by decide, by decide, by decide, by decide, by decide, by decide⟩

/-- Region 0 with RCD over region 7 with RCE and every other attribute, both at 000C0000h; region 7 has 256 KBytes. -/
def overlapConfig : ConfigFile :=
  configStore (configStore (configStore regionConfig 0xDA#8 0x0C#8) 0xDB#8 0x01#8) 0xE3#8 0x3F#8

/-- Region 7 of 256 KBytes at 000C0000h with RCE alone, and NO_LOCK. -/
def agreeingConfig : ConfigFile := configStore (configStore overlapConfig 0xE3#8 0x01#8) 0xC1#8 0x10#8

theorem test_witness_OverlappingRegionsPrecedence :
    (∃ t, attributesOf true overlapConfig true true 0xC0000 = .ok t ∧ t.cached = false ∧ t.gathered = false) ∧
    regionHit overlapConfig 0 0xC0000 = true ∧ regionHit overlapConfig 7 0xC0000 = true ∧
    regionHit overlapConfig 0 0xE0000 = false ∧ regionHit overlapConfig 7 0xE0000 = true ∧
    (∃ t, attributesOf true agreeingConfig true true 0xE0000 = .ok t ∧ t.cached = true ∧ t.writeBack = true ∧
      t.weakLock = true) ∧
    (∀ n : Fin 8, regionHit agreeingConfig n 0xE0000 = true →
      (if n = 7 then rcdRce agreeingConfig n = true else rcdRce agreeingConfig n = false) ∧ wt agreeingConfig n = false) ∧
    nc1 agreeingConfig = false ∧ noLock agreeingConfig = true :=
  ⟨⟨_, rfl, by decide, by decide⟩, by decide, by decide, by decide, by decide, ⟨_, rfl, by decide, by decide, by decide⟩,
    by decide, by decide, by decide⟩

theorem test_witness_MisalignedRegionStopsEveryAccess :
    arren (configStore regionConfig 0xC5#8 0x0D#8) = true ∧ arrSize (configStore regionConfig 0xC5#8 0x0D#8) 0 ≠ 0#4 ∧
    regionStart (configStore regionConfig 0xC5#8 0x0D#8) 0 % regionSize (configStore regionConfig 0xC5#8 0x0D#8) 0 ≠ 0 ∧
    (0xFFFFFFFC#32).toNat % Width.dword.bytes = 0 := by decide

/-- CCR0 = 02h (NC1), CCR5 = 10h (LBR1), and CCR2 = 10h (WPR1) alone, at the first and the last dword of the region. -/
theorem test_witness_FixedRegionBits :
    (∃ t, attributesOf true (configStore ConfigFile.reset 0xC0#8 0x02#8) true true 0xA0000 = .ok t) ∧
    nc1 (configStore ConfigFile.reset 0xC0#8 0x02#8) = true ∧ lbr1 (configStore ConfigFile.reset 0xE9#8 0x10#8) = true ∧
    (∃ t, (moving.withCfg 0xC2#8 0x10#8).attributes (0xFFFFC#32).toNat = .ok t ∧ t.cachePermitted = true) ∧
    wpr1 (moving.withCfg 0xC2#8 0x10#8).cfg = true ∧ (0xFFFFC#32).toNat % Width.dword.bytes = 0 ∧
    0xA0000 ≤ (0xFFFFC#32).toNat ∧ (0xFFFFC#32).toNat ≤ 0xFFFFF :=
  ⟨⟨_, rfl⟩, by decide, by decide, ⟨_, rfl, by decide⟩, by decide, by decide, by decide, by decide⟩

/-- SM3 = 1 and SMAC = 1 with ARR3 128 KBytes at 000A0000h: its last address, the one after it, and SMAC = 0 outside and
inside an SMI service routine. -/
def smmConfig : ConfigFile := configStore (configStore (configStore ConfigFile.reset 0xCE#8 0x0A#8) 0xCF#8 0x06#8) 0xC1#8 0x84#8

theorem test_witness_SmacSelectsSystemManagementMemory :
    (sm3 smmConfig = true ∧ regionStart smmConfig 3 ≤ 0xBFFFF ∧ 0xBFFFF < regionStart smmConfig 3 + regionSize smmConfig 3 ∧
      smac smmConfig = true) ∧
    ¬ (sm3 smmConfig = true ∧ regionStart smmConfig 3 ≤ 0xC0000 ∧ 0xC0000 < regionStart smmConfig 3 + regionSize smmConfig 3) ∧
    (sm3 (configStore smmConfig 0xC1#8 0x80#8) = true ∧ smac (configStore smmConfig 0xC1#8 0x80#8) = false ∧
      moving.env.smm = false ∧ (moving.setEnv { moving.env with smm := true }).env.smm = true) := by decide

theorem test_witness_MemoryWriteThenRead :
    (0x1001#32).toNat % Width.word.bytes ≠ 0 ∧ (0xFFFFFFFC#32).toNat % Width.dword.bytes = 0 ∧
    ∃ t, moving.attributes (0xFFFFFFFC#32).toNat = .ok t ∧ t.writeProtected = false :=
  ⟨by decide, by decide, _, rfl, by decide⟩

theorem test_witness_GateDecodeInvertsEncode :
    ((gateFields 0x00081000#32 0x0040EC1F#32).sBit = false ∧ (gateFields 0x00081000#32 0x0040EC1F#32).unnamed = 0#3) ∧
    (0x0040EC1F#32).getLsbD 12 = false ∧ (0x0040EC1F#32).extractLsb' 5 3 = 0#3 ∧
    ((0xFFFFFFF8#32).toNat + 8 ≤ 2 ^ 32 ∧ (0xFFFFFFF8#32).toNat % 4 = 0 ∧ regionsAligned moving.cfg) ∧
    (0x2002#32).toNat % 4 ≠ 0 :=
  ⟨by decide, by decide, by decide, ⟨by decide, by decide, moving_aligned⟩, by decide⟩

/-- The highest bases a TSS of each size fits at. -/
theorem test_witness_TssFieldsReadBack :
    regionsAligned moving.cfg ∧ ((0xFFFFFF98#32).toNat % 4 = 0 ∧ (0xFFFFFF98#32).toNat + 0x68 ≤ 2 ^ 32) ∧
    ((0xFFFFFFD4#32).toNat % 2 = 0 ∧ (0xFFFFFFD4#32).toNat + 0x2C ≤ 2 ^ 32) ∧
    (Tss32Field.width .gs = 16 ∧ Tss32Field.gs ≠ .ioMapBase ∧ 0xFFFF0000#32 &&& 0x0000FFFF#32 = 0#32) :=
  ⟨moving_aligned, by decide, by decide, by decide⟩

theorem test_witness_GateKindByType :
    (gateFields 0x00081000#32 0x0040ECE2#32).kind = some .callGate32 ∧ (0x000000E0#32) &&& 0xFFFFFF1F#32 = 0#32 := by decide

theorem test_witness_EventsAreGated :
    (moving.setEvents [.smi]).events = [.smi] ∧ useSmi moving.cfg = false ∧ smac (moving.withCfg 0xC1#8 0x86#8).cfg = true ∧
    (useSmi (moving.withCfg 0xC1#8 0x82#8).cfg = true ∧ smac (moving.withCfg 0xC1#8 0x82#8).cfg = false ∧
      sm3 (moving.withCfg 0xC1#8 0x82#8).cfg = true) ∧
    sm3 (moving.withCfg 0xC1#8 0x02#8).cfg = false ∧ moving.env.smm = false ∧
    ((moving.setEnv { moving.env with smm := true }).env.smm = true ∧ nmiEn moving.cfg = false ∧
      nmiEn (moving.withCfg 0xC3#8 0x02#8).cfg = true) ∧
    useSusp moving.cfg = false ∧ useSusp (moving.withCfg 0xC2#8 0x80#8).cfg = true ∧
    ((movingQuiet.setActivity .halted).events = [.quiet, .nmi] ∧ (movingQuiet.setActivity .halted).nmiPending = false ∧
      (movingQuiet.setActivity .halted).activity ≠ .running ∧ (movingQuiet.setNmiPending true).nmiPending = true) ∧
    (moving.setEvents [.hardwareInterrupt]).events = [.hardwareInterrupt] ∧
    (moving.setEvents [.taskSwitch]).events = [.taskSwitch] ∧ (moving.setEvents [.gateTransfer]).events = [.gateTransfer] := by
  decide

end Sys2Proof.Tests
end

section
/-! The configuration registers and the RESET pin: what `configByte` reads at each range of indexes, what one step takes
at a RESET event, and from these the statements on reset. -/

namespace Sys2Proof.Machine

theorem configPlace_low {i : BitVec 8} (hlo : 0xC0 ≤ i.toNat) (hhi : i.toNat ≤ 0xE3) :
    configPlace i = some ⟨i.toNat - 0xC0, by omega⟩ :=
  dif_pos ⟨hlo, hhi⟩

@[simp] theorem configPlace_ccr4 : configPlace 0xE8#8 = some 36 := rfl
@[simp] theorem configPlace_ccr5 : configPlace 0xE9#8 = some 37 := rfl
@[simp] theorem configPlace_dir0 : configPlace 0xFE#8 = none := rfl
@[simp] theorem configPlace_dir1 : configPlace 0xFF#8 = none := rfl

/-- At the index of a writable register the file is read at that register's place. -/
theorem configByte_of_place {i : BitVec 8} {p : Fin 38} (cf : ConfigFile) (h : configPlace i = some p) :
    configByte cf i = cf[p] := by
  simp [configByte, h]

/-- DIR0 reads as a constant of the part, whatever the file holds (R25). -/
@[simp] theorem configByte_dir0 (cf : ConfigFile) : configByte cf 0xFE#8 = Config.devid := by
  simp [configByte]

/-- DIR1 reads as two constants of the part, whatever the file holds (R26). -/
@[simp] theorem configByte_dir1 (cf : ConfigFile) : configByte cf 0xFF#8 = Config.sid ++ Config.rid := by
  simp [configByte]

/-- The file of reset by place: CCR4, at place 36, is the one register that is not zero (R11, R17). -/
theorem ConfigFile.reset_get (p : Fin 38) : ConfigFile.reset[p] = if p = 36 then 0x05#8 else 0x00#8 := by
  by_cases h : p = 36
  · simp [ConfigFile.reset, h]
  · have hp : (36 : Nat) ≠ p.val := fun e => h (Fin.ext e.symm)
    simp [ConfigFile.reset, h, hp]

theorem configByte_reset_low {i : BitVec 8} (hlo : 0xC0 ≤ i.toNat) (hhi : i.toNat ≤ 0xE3) :
    configByte ConfigFile.reset i = 0x00#8 := by
  have hne : (⟨i.toNat - 0xC0, by omega⟩ : Fin 38) ≠ 36 := Fin.ne_of_val_ne (show i.toNat - 0xC0 ≠ 36 by omega)
  rw [configByte_of_place _ (configPlace_low hlo hhi), ConfigFile.reset_get, if_neg hne]

theorem configByte_reset_ccr4 : configByte ConfigFile.reset 0xE8#8 = 0x05#8 := by
  rw [configByte_of_place _ configPlace_ccr4, ConfigFile.reset_get, if_pos rfl]

theorem configByte_reset_ccr5 : configByte ConfigFile.reset 0xE9#8 = 0x00#8 := by
  rw [configByte_of_place _ configPlace_ccr5, ConfigFile.reset_get, if_neg (by decide)]

@[simp] theorem State.reset_cfg : State.reset.cfg = ConfigFile.reset := rfl
@[simp] theorem State.afterReset_cfg (s : State) : s.afterReset.cfg = ConfigFile.reset := rfl

/-- The step at a RESET event takes the pin and nothing else, whatever the state was (R380). -/
theorem step_of_reset_event {u : State} {es : List Event} (h : u.events = .reset :: es) :
    step u = .next (u.setEvents es).afterReset := by
  simp [step, h, takeEvent]

/-- Settles O8: both ways of being reset leave the file `ConfigFile.reset`, which is then read index by index. -/
theorem configurationAfterReset : Obligations.ConfigurationAfterReset := by
  intro s hs
  have hcfg : s.cfg = ConfigFile.reset := by
    obtain rfl | ⟨u, es, hu, hstep⟩ := hs
    · exact State.reset_cfg
    · rw [step_of_reset_event hu] at hstep
      cases hstep
      exact State.afterReset_cfg _
  rw [hcfg]
  exact ⟨fun _ => configByte_reset_low, configByte_reset_ccr4, configByte_reset_ccr5, configByte_dir0 _, configByte_dir1 _⟩

end Sys2Proof.Machine
end

section
/-! The helper moves MOV r8, imm8 and MOV r8, r8: what a byte register write leaves of the register file, the frame of an
instruction that works on registers, and from these the statements on the two moves. -/

namespace Sys2Proof.Machine

/-! ### Byte registers -/

/-- A byte put back where it stands changes nothing. -/
theorem putByte_self (x : BitVec 32) (k : Nat) : putByte x k (x.extractLsb' k 8) = x := by
  apply BitVec.eq_of_getLsbD_eq
  intro i _
  rw [getLsbD_putByte, BitVec.getLsbD_extractLsb']
  split
  next h =>
    have hin : i - k < 8 := by omega
    have hat : k + (i - k) = i := by omega
    simp [hin, hat]
  next => rfl

/-- Both byte registers of a general register lie in its low half. -/
theorem Reg8.shift_add_eight_le (r : Reg8) : Reg8.shift r + 8 ≤ 16 := by
  cases r <;> decide

theorem sameRegisters_setReg8_self (s : State) (r : Reg8) : sameRegisters s (s.setReg8 r (s.reg8 r)) := by
  intro q
  rw [State.reg32_setReg8]
  split
  next h => rw [h, State.reg8, putByte_self]
  next => rfl

theorem otherBytes_setReg8 (s : State) (r : Reg8) (v : BitVec 8) : otherBytes r s (s.setReg8 r v) := by
  refine ⟨fun q hq => ?general, fun q hq => ?byte, ?high⟩
  case general => rw [State.reg32_setReg8, if_neg hq]
  case byte => rw [State.reg8_setReg8, if_neg hq]
  case high =>
    rw [State.reg32_setReg8, if_pos rfl]
    exact putByte_highHalf _ _ _ (Reg8.shift_add_eight_le r)

theorem RegisterFrame.setReg8 (s : State) (r : Reg8) (v : BitVec 8) : RegisterFrame s (s.setReg8 r v) where
  memory _ := ⟨rfl, rfl⟩
  system := ⟨rfl, rfl, rfl, rfl⟩
  taskRegister := ⟨rfl, rfl, rfl⟩
  debug := ⟨rfl, rfl, rfl⟩
  platform := ⟨rfl, rfl, rfl, rfl⟩
  access := rfl
  config := rfl
  selection := ⟨rfl, rfl⟩
  io := rfl

/-! ### Going past an instruction: what held of the state before the advance holds after it -/

theorem sameRegisters.advance {s t : State} (h : sameRegisters s t) (n : Nat) : sameRegisters s (t.advance n) :=
  fun q => (State.reg32_advance t n q).trans (h q)

theorem otherBytes.advance {r : Reg8} {s t : State} (h : otherBytes r s t) (n : Nat) : otherBytes r s (t.advance n) := by
  simpa only [otherBytes, otherRegisters, State.reg32_advance, State.reg8_advance] using h

theorem PortFrame.advance {s t : State} (h : PortFrame s t) (n : Nat) : PortFrame s (t.advance n) where
  memory := by simpa only [sameMemory, State.advance_mem, State.advance_smmMem] using h.memory
  system := by
    simpa only [sameSystem, State.advance_seg, State.advance_eflags, State.advance_cr0, State.advance_cr3] using h.system
  taskRegister := by
    simpa only [sameTaskRegister, State.advance_trSelector, State.advance_trHidden, State.advance_trLoaded]
      using h.taskRegister
  debug := by simpa only [sameDebug, State.advance_dr, State.advance_dr6, State.advance_dr7] using h.debug
  platform := by
    simpa only [samePlatform, State.advance_env, State.advance_events, State.advance_nmiPending, State.advance_activity]
      using h.platform
  access := (State.advance_accesses t n).trans h.access

theorem RegisterFrame.advance {s t : State} (h : RegisterFrame s t) (n : Nat) : RegisterFrame s (t.advance n) where
  toPortFrame := h.toPortFrame.advance n
  config := (State.advance_cfg t n).trans h.config
  selection := by simpa only [sameSelection, State.advance_cfgIndex, State.advance_cfgArmed] using h.selection
  io := (State.advance_ioCycles t n).trans h.io

/-- The range of the program counter is an input of the platform. -/
theorem State.pcLimit_congr {s t : State} (h : t.env = s.env) : t.pcLimit = s.pcLimit := by
  rw [State.pcLimit, State.pcLimit, h]

/-- An advance from where the instruction began, under the same inputs, is the advance `pcAdvanced` speaks of. -/
theorem pcAdvanced_advance {s t : State} (hpc : t.pc = s.pc) (henv : t.env = s.env) (n : Nat) :
    pcAdvanced n s (t.advance n) := by
  intro hroom
  rw [State.advance_pc, hpc, State.pcLimit_congr henv, if_pos hroom]

/-! ### The two moves -/

/-- What R155 and R156 share: the byte `v` written to `r`, and `n` bytes of instruction passed. -/
theorem setReg8_advance_spec (s : State) (r : Reg8) (v : BitVec 8) (n : Nat) :
    ((s.setReg8 r v).advance n).reg8 r = v ∧ otherBytes r s ((s.setReg8 r v).advance n) ∧
      RegisterFrame s ((s.setReg8 r v).advance n) ∧ pcAdvanced n s ((s.setReg8 r v).advance n) :=
  ⟨by rw [State.reg8_advance, State.reg8_setReg8_same], (otherBytes_setReg8 s r v).advance n,
    (RegisterFrame.setReg8 s r v).advance n, pcAdvanced_advance (State.setReg8_pc s r v) (State.setReg8_env s r v) n⟩

/-- The opcode byte of MOV r8, imm8: the register number in the low bits of B0h (R155). -/
theorem movR8ImmOpcode_eq (b : BitVec 3) : 0x16#5 ++ b = 0xB0#8 + b.setWidth 8 := by
  revert b; decide

theorem exec_movR8Imm (r : Reg8) (imm : BitVec 8) (s : State) :
    exec (.movR8Imm r imm) s = .next ((s.setReg8 r imm).advance 2) := rfl

theorem exec_movR8R8 (d r : Reg8) (s : State) :
    exec (.movR8R8 d r) s = .next ((s.setReg8 d (s.reg8 r)).advance 2) := rfl

/-- Settles O19: the move is a byte register write and an advance. -/
theorem movR8ImmWritesOneByte : Obligations.MovR8ImmWritesOneByte := by
  intro r imm s
  refine ⟨?_, _, exec_movR8Imm r imm s, setReg8_advance_spec s r imm 2⟩
  rw [encode, movR8ImmOpcode_eq]

/-- Settles O20: the move is a byte register write and an advance; from a register to itself it puts back the byte that
stands there. -/
theorem movR8R8CopiesOneByte : Obligations.MovR8R8CopiesOneByte := by
  intro d r s
  obtain ⟨hwritten, hothers, hframe, hpc⟩ := setReg8_advance_spec s d (s.reg8 r) 2
  refine ⟨rfl, _, exec_movR8R8 d r s, hwritten, hothers, hframe, hpc, ?_⟩
  rintro rfl
  exact (sameRegisters_setReg8_self s d).advance 2

end Sys2Proof.Machine
end

section
/-! One write of a configuration register: what `configStore` leaves of every index, what SMI_LOCK becomes, and the one way
a step other than RESET reaches the file. From these the statement that SMI_LOCK is one-way. -/

namespace Sys2Proof.Machine

/-! ### The file by index, after a store -/

/-- The index of a place in the file: 36 indexes from C0h, then E8h and E9h (R10). -/
theorem toNat_of_configPlace {i : BitVec 8} {p : Fin 38} (h : configPlace i = some p) :
    i.toNat = if p.val < 36 then 0xC0 + p.val else 0xC4 + p.val := by
  unfold configPlace at h
  split at h
  next hlow =>
    rw [← Option.some.inj h]
    dsimp only
    split <;> omega
  next =>
    split at h
    next hccr4 => rw [← Option.some.inj h, hccr4]; rfl
    next =>
      split at h
      next hccr5 => rw [← Option.some.inj h, hccr5]; rfl
      next => cases h

theorem configPlace_injective {i j : BitVec 8} {p : Fin 38} (hi : configPlace i = some p) (hj : configPlace j = some p) :
    i = j :=
  BitVec.eq_of_toNat_eq ((toNat_of_configPlace hi).trans (toNat_of_configPlace hj).symm)

theorem configByte_configStore_same {i : BitVec 8} {p : Fin 38} (cf : ConfigFile) (v : BitVec 8)
    (h : configPlace i = some p) : configByte (configStore cf i v) i = v := by
  simp [configByte, configStore, h]

theorem configByte_configStore_other (cf : ConfigFile) {i j : BitVec 8} (v : BitVec 8) (hne : j ≠ i) :
    configByte (configStore cf i v) j = configByte cf j := by
  cases hi : configPlace i with
  | none => simp [configStore, hi]
  | some p =>
    cases hj : configPlace j with
    | none => simp [configByte, hj]
    | some q =>
      have hpq : p.val ≠ q.val := fun e => hne (configPlace_injective hj (Fin.ext e ▸ hi))
      simp [configByte, configStore, hi, hj, hpq]

/-! ### SMI_LOCK -/

@[simp] theorem configPlace_ccr3 : configPlace 0xC3#8 = some 3 := rfl

/-- SMI_LOCK is bit 0 of CCR3, read at index C3h (R16). -/
theorem smiLock_eq (cf : ConfigFile) : smiLock cf = (configByte cf 0xC3#8).getLsbD 0 := rfl

/-- SMI_LOCK does not cover itself: of CCR3 it covers NMI_EN alone (R235). -/
theorem lockMask_ccr3 : lockMask 0xC3#8 = 0x02#8 := rfl

/-- In the byte a write of CCR3 stores, bit 0 is set by a 1 and kept over a 0, whatever else is locked (R237). -/
theorem newConfigByte_ccr3_bit0 (cf : ConfigFile) (smm : Bool) (v : BitVec 8) :
    (newConfigByte cf smm 0xC3#8 v).getLsbD 0 = ((configByte cf 0xC3#8).getLsbD 0 || v.getLsbD 0) := by
  have hfree : (if smiLock cf && !smm then lockMask 0xC3#8 else 0#8).getLsbD 0 = false := by
    rw [lockMask_ccr3]
    split <;> rfl
  simp only [newConfigByte, if_true, BitVec.getLsbD_or, BitVec.getLsbD_and, BitVec.getLsbD_not, hfree]
  cases (configByte cf 0xC3#8).getLsbD 0 <;> simp

/-- No on-chip write clears SMI_LOCK: at C3h bit 0 is kept, at another index CCR3 is not touched. -/
theorem smiLock_configStore {cf : ConfigFile} (h : smiLock cf = true) (smm : Bool) (i v : BitVec 8) :
    smiLock (configStore cf i (newConfigByte cf smm i v)) = true := by
  rw [smiLock_eq] at h ⊢
  by_cases hi : i = 0xC3#8
  · rw [hi, configByte_configStore_same _ _ configPlace_ccr3, newConfigByte_ccr3_bit0, h, Bool.true_or]
  · rw [configByte_configStore_other _ _ (Ne.symm hi), h]

/-! ### The one way an instruction reaches the file -/

/-- The write of AL at the selected index: a selection is pending, the index is on chip, no reserved bit is written, and
the byte of R233 is stored. -/
structure StoresSelected (s t : State) : Prop where
  armed : s.cfgArmed = true
  onChip : classify s.cfgIndex (mapen s.cfg) = .onChip
  unreserved : s.al &&& reservedMask s.cfgIndex = 0#8
  stored : t.cfg = configStore s.cfg s.cfgIndex (newConfigByte s.cfg s.env.smm s.cfgIndex s.al)

@[simp] theorem State.setAl_cfg (s : State) (v : BitVec 8) : (s.setAl v).cfg = s.cfg := rfl

@[simp] theorem State.writeDr_cfg (s : State) (n : DrNum) (v : BitVec 32) : (s.writeDr n v).cfg = s.cfg := by
  cases n <;> rfl

@[simp] theorem State.readDr_cfg (s : State) (n : DrNum) : (s.readDr n).2.cfg = s.cfg := by
  cases n <;> rfl

theorem outByte_cfg {s t : State} {port : BitVec 16} {n : Nat} (h : outByte s port n = .next t) :
    t.cfg = s.cfg ∨ port = 0x23#16 ∧ StoresSelected s t := by
  obtain ⟨u, hu, rfl⟩ := outByte_next h
  rw [State.advance_cfg]
  obtain ⟨-, ⟨-, rfl⟩ | ⟨hport, harmed, hu⟩ | ⟨-, -, rfl⟩⟩ := ioWrite8_next hu
  · exact .inl rfl
  · obtain ⟨hclass, hu⟩ | ⟨-, rfl⟩ := armedWrite_next hu
    · obtain ⟨-, rfl⟩ | ⟨-, hclean, rfl⟩ := configWrite_next hu
      · exact .inl rfl
      · exact .inr ⟨hport, harmed, hclass, hclean, State.advance_cfg _ _⟩
    · exact .inl rfl
  · exact .inl rfl

theorem inByte_cfg {s t : State} {port : BitVec 16} {n : Nat} (h : inByte s port n = .next t) : t.cfg = s.cfg := by
  obtain ⟨r, hr, rfl⟩ := inByte_next h
  rw [State.advance_cfg, State.setAl_cfg]
  obtain ⟨-, ⟨-, -, hr⟩ | ⟨-, rfl⟩⟩ := ioRead8_next hr
  · obtain ⟨-, rfl⟩ | ⟨-, rfl⟩ | ⟨-, rfl⟩ := armedRead_next hr <;> rfl
  · rfl

/-- An instruction that goes on leaves the configuration registers as they are, or is an OUT to port 23h that stores AL at
the selected index. -/
theorem exec_cfg {i : Instr} {s t : State} (h : exec i s = .next t) :
    t.cfg = s.cfg ∨ (∃ n, writesPort i s 0x23#16 n) ∧ StoresSelected s t := by
  cases i with
  | outImmAl p =>
    obtain hsame | ⟨hport, hstore⟩ := outByte_cfg h
    · exact .inl hsame
    · exact .inr ⟨⟨2, .inl ⟨p, rfl, hport.symm, rfl⟩⟩, hstore⟩
  | outDxAl =>
    obtain hsame | ⟨hport, hstore⟩ := outByte_cfg h
    · exact .inl hsame
    · exact .inr ⟨⟨1, .inr ⟨rfl, hport.symm, rfl⟩⟩, hstore⟩
  | inAlImm p => exact .inl (inByte_cfg h)
  | inAlDx => exact .inl (inByte_cfg h)
  | ltr r =>
    obtain ⟨-, -, -, d, x, -, hx, -, rfl⟩ := execLtr_next h
    obtain ⟨a, b, hab⟩ := readDescriptor_state hx
    simp [hab]
  | str r =>
    obtain ⟨-, rfl⟩ := execStr_next h
    simp
  | movR32Dr r n =>
    obtain ⟨-, -, -, h⟩ := debugMove_next h
    cases h
    simp
  | movDrR32 n r =>
    obtain ⟨-, -, -, h⟩ := debugMove_next h
    cases h
    simp
  | hlt =>
    obtain ⟨-, rfl⟩ := execHlt_next h
    exact .inl rfl
  | loop rel =>
    rw [execLoop_next h]
    split <;> simp
  | cpuid =>
    simp only [exec, execCpuid] at h
    split at h <;> simp at h
  | int3 => simp [exec, execInt3] at h
  | movR8Imm r imm =>
    cases h
    simp
  | movR8R8 d r =>
    cases h
    simp

/-- An event that goes on leaves the configuration registers as they are, or is the RESET pin. -/
theorem takeEvent_cfg {e : Event} {s t : State} (h : takeEvent e s = .next t) :
    t.cfg = s.cfg ∨ e = .reset ∧ t.cfg = ConfigFile.reset := by
  obtain ⟨he, rfl⟩ | ⟨-, -, rfl⟩ | ⟨-, -, rfl⟩ | ⟨-, rfl⟩ | ⟨env, -, rfl⟩ | ⟨-, rfl⟩ := takeEvent_next h
  · exact .inr ⟨he, State.afterReset_cfg s⟩
  · exact .inl rfl
  · exact .inl rfl
  · split <;> exact .inl rfl
  · exact .inl rfl
  · exact .inl rfl

/-- What a step does to the configuration registers when it goes on: nothing, a store of AL at the selected index, or the
file of RESET. -/
theorem step_cfg {s t : State} (h : step s = .next t) :
    t.cfg = s.cfg ∨ StoresSelected s t ∨ s.events.head? = some .reset ∧ t.cfg = ConfigFile.reset := by
  obtain ⟨e, es, hs, -, h⟩ | ⟨-, -, h⟩ | ⟨-, -, rfl⟩ := step_next h
  · obtain hsame | ⟨rfl, hreset⟩ := takeEvent_cfg h
    · exact .inl hsame
    · exact .inr (.inr ⟨by rw [hs, List.head?_cons], hreset⟩)
  · obtain ⟨i, -, h, -⟩ := runInstruction_next h
    obtain hsame | ⟨-, hstore⟩ := exec_cfg h
    · exact .inl (by simpa using hsame)
    · have hal : s.passQuiet.clearAccesses.al = s.al := State.reg8_congr (by simp) .al
      exact .inr (.inl ⟨by simpa using hstore.armed, by simpa using hstore.onChip,
        by simpa [hal] using hstore.unreserved, by simpa [hal] using hstore.stored⟩)
  · exact .inl (State.passQuiet_cfg s)

theorem smiLock_reset : smiLock ConfigFile.reset = false := by decide

/-- Settles O12: a step reaches the file by RESET alone or by an on-chip write, and no on-chip write clears SMI_LOCK. -/
theorem smiLockIsClearedByResetOnly : Obligations.SmiLockIsClearedByResetOnly := by
  refine ⟨fun s t v h => ?write, fun s t hlock hevent h => ?kept, fun s t hevent h => ?cleared⟩
  case write =>
    obtain ⟨hdir, -⟩ | ⟨-, -, rfl⟩ := configWrite_next h
    · exact absurd hdir (by decide)
    · rw [State.setCfg_cfg, configByte_configStore_same _ _ configPlace_ccr3, newConfigByte_ccr3_bit0]
  case kept =>
    obtain hsame | hstore | ⟨hreset, -⟩ := step_cfg h
    · rw [hsame, hlock]
    · rw [hstore.stored, smiLock_configStore hlock]
    · exact absurd hreset hevent
  case cleared =>
    obtain ⟨es, hes⟩ := List.head?_eq_some_iff.1 hevent
    rw [step_of_reset_event hes] at h
    cases h
    rw [State.afterReset_cfg, smiLock_reset]

end Sys2Proof.Machine
end

section
/-! The ports 22h and 23h: the classification of an index by MAPEN, what a port write answers where it is allowed, and the
frame of an OUT. From these the statements on the classification, on the selection at port 22h, and on a port 23h write that
reaches no writable register. -/

namespace Sys2Proof.Machine

/-! ### The classification of an index -/

theorem alwaysOpen_iff (i : BitVec 8) :
    alwaysOpen i = true ↔ (0xC0 ≤ i.toNat ∧ i.toNat ≤ 0xCF) ∨ i.toNat = 0xFE ∨ i.toNat = 0xFF := by
  simp [alwaysOpen, ← BitVec.toNat_inj, or_assoc]

theorem isRegister_iff (i : BitVec 8) :
    isRegister i = true ↔ (0xC0 ≤ i.toNat ∧ i.toNat ≤ 0xE3) ∨ i.toNat = 0xE8 ∨ i.toNat = 0xE9 ∨ i.toNat = 0xFE ∨
      i.toNat = 0xFF := by
  simp [isRegister, ← BitVec.toNat_inj, or_assoc]

/-- An index that is always open is on chip, whatever MAPEN is (R226). -/
theorem classify_of_alwaysOpen {i : BitVec 8} (h : alwaysOpen i = true) (m : BitVec 4) : classify i m = .onChip :=
  if_pos h

theorem classify_mapen_zero {i : BitVec 8} (h : ¬ alwaysOpen i = true) : classify i 0#4 = .external := by
  rw [classify, if_neg h, if_pos rfl]

theorem classify_mapen_one {i : BitVec 8} (h : ¬ alwaysOpen i = true) :
    classify i 1#4 = if isRegister i then .onChip else .noRegister := by
  rw [classify, if_neg h, if_neg (by decide), if_pos rfl]

theorem classify_mapen_undefined {i : BitVec 8} {m : BitVec 4} (h : ¬ alwaysOpen i = true) (hm : 2 ≤ m.toNat) :
    classify i m = .undefined := by
  have hzero : m ≠ 0#4 := by rintro rfl; exact absurd hm (by decide)
  have hone : m ≠ 1#4 := by rintro rfl; exact absurd hm (by decide)
  rw [classify, if_neg h, if_neg hzero, if_neg hone]

/-- Settles O48: the two sets of indexes are ranges, and MAPEN is 0h, 1h or above. -/
theorem classifyByRanges : Obligations.ClassifyByRanges := by
  intro i m
  simp only [← alwaysOpen_iff, ← isRegister_iff]
  refine ⟨fun hopen => ?always, fun hopen hm => ?external, fun hopen hm hreg => ?register, fun hopen hm hreg => ?hole,
    fun hopen hm => ?undefined⟩
  case always => exact classify_of_alwaysOpen hopen m
  case external =>
    obtain rfl : m = 0#4 := BitVec.eq_of_toNat_eq hm
    exact classify_mapen_zero hopen
  case register =>
    obtain rfl : m = 1#4 := BitVec.eq_of_toNat_eq hm
    rw [classify_mapen_one hopen, if_pos hreg]
  case hole =>
    obtain rfl : m = 1#4 := BitVec.eq_of_toNat_eq hm
    rw [classify_mapen_one hopen, if_neg hreg]
  case undefined => exact classify_mapen_undefined hopen hm

/-! ### A port write where it is allowed -/

theorem ioPermitted_iff (s : State) : s.ioPermitted = true ↔ portAllowed s := by
  simp [State.ioPermitted, portAllowed]

theorem ioWrite8_selects {s : State} (h : portAllowed s) (v : BitVec 8) :
    ioWrite8 s 0x22#16 v = .next (selectIndex s v) := by
  simp [ioWrite8, (ioPermitted_iff s).2 h]

theorem ioWrite8_armed {s : State} (h : portAllowed s) (ha : s.cfgArmed = true) (v : BitVec 8) :
    ioWrite8 s 0x23#16 v = armedWrite s v := by
  simp [ioWrite8, (ioPermitted_iff s).2 h, ha]

/-- A write to DIR0 or DIR1 is hit on chip and changes no register: only the selection is used up (R234). -/
theorem armedWrite_dir {s : State} (h : s.cfgIndex = 0xFE#8 ∨ s.cfgIndex = 0xFF#8) (v : BitVec 8) :
    armedWrite s v = .next s.disarm := by
  have hopen : alwaysOpen s.cfgIndex = true := by obtain h | h := h <;> rw [h] <;> rfl
  rw [armedWrite, classify_of_alwaysOpen hopen]
  exact if_pos h

/-- A write to an index that MAPEN hides goes to the external bus, and the selection is used up (R228). -/
theorem armedWrite_external {s : State} (h : classify s.cfgIndex (mapen s.cfg) = .external) (v : BitVec 8) :
    armedWrite s v = .next (s.disarm.extWrite 0x23#16 v) := by
  rw [armedWrite, h]

/-! ### OUT -/

/-- Both forms of OUT are the byte in AL written to their port, then the advance past them (R240, R242). -/
theorem exec_of_writesPort {i : Instr} {s : State} {port : BitVec 16} {n : Nat} (h : writesPort i s port n) :
    exec i s = outByte s port n := by
  obtain ⟨p, rfl, rfl, rfl⟩ | ⟨rfl, rfl, rfl⟩ := h <;> rfl

/-- An OUT whose port write answers `t` goes on in `t`, past the instruction. -/
theorem exec_of_portWrite {i : Instr} {s t : State} {port : BitVec 16} {n : Nat} (h : writesPort i s port n)
    (ht : ioWrite8 s port (s.reg8 .al) = .next t) : exec i s = .next (t.advance n) := by
  rw [exec_of_writesPort h, outByte, State.al, ht, andThen_of_next]

theorem PortFrame.selectIndex (s : State) (v : BitVec 8) : PortFrame s (selectIndex s v) where
  memory _ := ⟨rfl, rfl⟩
  system := ⟨rfl, rfl, rfl, rfl⟩
  taskRegister := ⟨rfl, rfl, rfl⟩
  debug := ⟨rfl, rfl, rfl⟩
  platform := ⟨rfl, rfl, rfl, rfl⟩
  access := rfl

theorem PortFrame.disarm (s : State) : PortFrame s s.disarm where
  memory _ := ⟨rfl, rfl⟩
  system := ⟨rfl, rfl, rfl, rfl⟩
  taskRegister := ⟨rfl, rfl, rfl⟩
  debug := ⟨rfl, rfl, rfl⟩
  platform := ⟨rfl, rfl, rfl, rfl⟩
  access := rfl

/-- An external write cycle is outside the frame of a port instruction, so it is kept over one. -/
theorem PortFrame.extWrite {s t : State} (h : PortFrame s t) (port : BitVec 16) (v : BitVec 8) :
    PortFrame s (t.extWrite port v) where
  memory := h.memory
  system := h.system
  taskRegister := h.taskRegister
  debug := h.debug
  platform := h.platform
  access := h.access

/-- The advance after a port access that left the program counter where the instruction began. -/
theorem PortFrame.pcAdvanced {s t : State} (h : PortFrame s t) (hpc : t.pc = s.pc) (n : Nat) :
    pcAdvanced n s (t.advance n) := by
  obtain ⟨henv, -, -, -⟩ := h.platform
  exact pcAdvanced_advance hpc henv n

/-- Settles O39: the port write is the selection, with the cycle the parameter allows. -/
theorem outToPort22Selects : Obligations.OutToPort22Selects := by
  intro i s n hwrites hallowed
  have hregs : sameRegisters s (selectIndex s (s.reg8 .al)) := fun _ => rfl
  have hframe := PortFrame.selectIndex s (s.reg8 .al)
  refine ⟨_, exec_of_portWrite hwrites (ioWrite8_selects hallowed _), ?index, ?armed, ?cycles, ?config, hregs.advance n,
    hframe.advance n, hframe.pcAdvanced rfl n⟩
  case index => exact State.advance_cfgIndex _ n
  case armed => exact State.advance_cfgArmed _ n
  case cycles => exact State.advance_ioCycles _ n
  case config => exact State.advance_cfg _ n

/-- Settles O42: on chip or external, the selection is used up, and only the second makes an I/O cycle. -/
theorem outToPort23ElsewhereUsesTheSelection : Obligations.OutToPort23ElsewhereUsesTheSelection := by
  intro i s n hwrites hallowed harmed
  refine ⟨fun hdir => ?onChip, fun hclass => ?external⟩
  case onChip =>
    have hexec := exec_of_portWrite hwrites ((ioWrite8_armed hallowed harmed _).trans (armedWrite_dir hdir _))
    have hregs : sameRegisters s s.disarm := fun _ => rfl
    have hframe := PortFrame.disarm s
    exact ⟨_, hexec, State.advance_cfgArmed _ n, State.advance_cfg _ n, hregs.advance n, hframe.advance n,
      State.advance_ioCycles _ n, hframe.pcAdvanced rfl n⟩
  case external =>
    have hexec := exec_of_portWrite hwrites ((ioWrite8_armed hallowed harmed _).trans (armedWrite_external hclass _))
    have hregs : sameRegisters s (s.disarm.extWrite 0x23#16 (s.reg8 .al)) := fun _ => rfl
    have hframe := (PortFrame.disarm s).extWrite 0x23#16 (s.reg8 .al)
    exact ⟨_, hexec, State.advance_cfgArmed _ n, State.advance_cfg _ n, hregs.advance n, hframe.advance n,
      State.advance_ioCycles _ n, hframe.pcAdvanced rfl n⟩

end Sys2Proof.Machine
end

section
/-! HLT and CPUID: the configuration bit each depends on, read at its index, what each answers on either side of its check,
and what a step of a stopped CPU answers. From these the statements on the two instructions. -/

namespace Sys2Proof.Machine

/-- SUSP_HLT is bit 3 of CCR2, read at index C2h (R15). -/
theorem suspHlt_eq (cf : ConfigFile) : suspHlt cf = (configByte cf 0xC2#8).getLsbD 3 := rfl

/-- The CPUID enable is bit 7 of CCR4, read at index E8h (R17). -/
theorem cpuidEnabled_eq (cf : ConfigFile) : cpuidEnabled cf = (configByte cf 0xE8#8).getLsbD 7 := rfl

/-! ### HLT -/

/-- In real mode, and at level 0 of protected mode, HLT ends the run where it stands (R270). -/
theorem exec_hlt_of_privileged {s : State} (h : s.env.protectedMode = false ∨ s.env.cpl = 0#2) :
    exec .hlt s = .next (s.setActivity (if suspHlt s.cfg then .suspended .hlt else .halted)) := by
  have hpass : ¬ (s.env.protectedMode && s.env.cpl != 0#2) = true := by
    obtain hreal | hlevel := h
    · simp [hreal]
    · simp [hlevel]
  exact if_neg hpass

/-- At another level of protected mode HLT is a general protection exception (R354). -/
theorem exec_hlt_of_unprivileged {s : State} (hmode : s.env.protectedMode = true) (hlevel : s.env.cpl ≠ 0#2) :
    exec .hlt s = .fault (.exception .generalProtection none s.pc s) := by
  have hfail : (s.env.protectedMode && s.env.cpl != 0#2) = true := by simp [hmode, hlevel]
  exact if_pos hfail

/-- With no NMI held pending, a CPU that is not running answers what `runOn` is given for it. -/
theorem runOn_of_stopped {s : State} (hnmi : s.nmiPending = false) (hstopped : s.activity ≠ .running)
    (o : Host.Outcome State Fault Refusal) : runOn s o = o := by
  rw [runOn, hnmi, Bool.false_and, if_neg Bool.false_ne_true, if_neg hstopped]

theorem step_of_no_events {s : State} (h : s.events = []) : step s = runOn s (.fault (.stopped s.activity)) := by
  rw [step, h]

/-- Settles O34: the privilege check decides HLT, and a stopped CPU without an event or an NMI has only its fault. -/
theorem hltEndsTheRun : Obligations.HltEndsTheRun := by
  refine fun s => ⟨fun hpriv => ?ends, exec_hlt_of_unprivileged, fun hevents hnmi hstopped => ?stopped⟩
  case ends =>
    rw [exec_hlt_of_privileged hpriv, suspHlt_eq, State.setActivity]
  case stopped =>
    rw [step_of_no_events hevents, runOn_of_stopped hnmi hstopped]

/-! ### CPUID -/

theorem exec_cpuid_of_disabled {s : State} (h : cpuidEnabled s.cfg = false) :
    exec .cpuid s = .fault (.exception .invalidOpcode none s.pc s) :=
  if_neg (Bool.eq_false_iff.1 h)

theorem exec_cpuid_of_enabled {s : State} (h : cpuidEnabled s.cfg = true) : exec .cpuid s = .refused .cpuidResults :=
  if_pos h

/-- Settles O37: the enable in CCR4 picks the exception or the refusal, and CPUID has no third outcome. -/
theorem cpuidStops : Obligations.CpuidStops := by
  intro s
  rw [← cpuidEnabled_eq]
  exact ⟨exec_cpuid_of_disabled, exec_cpuid_of_enabled⟩

end Sys2Proof.Machine
end

section
/-! Address regions by their registers: which bytes of the file hold START and SIZE, what the SIZE column of Table 2-18 gives,
and what resolving the attributes answers where no region is hit. From these the statements on the extent of a region and on
the default attributes. -/

namespace Sys2Proof.Machine

/-! ### The three bytes of an Address Region Register -/

/-- Byte `k` of ARRn is the register at index C4h + k + 3n (R19). -/
theorem configByte_arr (cf : ConfigFile) (n : Fin 8) (k : Fin 3) :
    configByte cf (BitVec.ofNat 8 (0xC4 + k.val + 3 * n.val)) = arrByte cf n k := by
  have hidx : (BitVec.ofNat 8 (0xC4 + k.val + 3 * n.val)).toNat = 0xC4 + k.val + 3 * n.val := by
    rw [BitVec.toNat_ofNat]
    omega
  have hplace : 0xC4 + k.val + 3 * n.val - 0xC0 = 4 + 3 * n.val + k.val := by omega
  rw [configByte_of_place cf (configPlace_low (by omega) (by omega)), arrByte]
  simp only [hidx, hplace, Fin.getElem_fin]

/-- START is A31 to A12: the first byte, the second, and the high half of the third (R19). -/
theorem toNat_arrStart (cf : ConfigFile) (n : Fin 8) :
    (arrStart cf n).toNat =
      (arrByte cf n 0).toNat * 2 ^ 12 + (arrByte cf n 1).toNat * 2 ^ 4 + (arrByte cf n 2).toNat / 16 := by
  have hmid : (arrByte cf n 1).toNat < 2 ^ 8 := BitVec.isLt _
  have hlow : (arrByte cf n 2).toNat < 2 ^ 8 := BitVec.isLt _
  have hhalf : ((arrByte cf n 2).extractLsb' 4 4).toNat = (arrByte cf n 2).toNat / 16 := by
    rw [BitVec.extractLsb'_toNat, Nat.shiftRight_eq_div_pow]
    omega
  rw [arrStart, BitVec.toNat_append, BitVec.toNat_append, hhalf, ← Nat.shiftLeft_add_eq_or_of_lt hmid,
    ← Nat.shiftLeft_add_eq_or_of_lt (by omega), Nat.shiftLeft_eq, Nat.shiftLeft_eq]
  omega

/-- SIZE is the low half of the third byte (R19). -/
theorem toNat_arrSize (cf : ConfigFile) (n : Fin 8) : (arrSize cf n).toNat = (arrByte cf n 2).toNat % 16 := by
  rw [arrSize, BitVec.extractLsb'_toNat, Nat.shiftRight_zero]

theorem regionStart_eq (cf : ConfigFile) (n : Fin 8) :
    regionStart cf n =
      (arrByte cf n 0).toNat * 2 ^ 24 + (arrByte cf n 1).toNat * 2 ^ 16 + (arrByte cf n 2).toNat / 16 * 2 ^ 12 := by
  rw [regionStart, toNat_arrStart]
  omega

/-! ### Table 2-18 -/

theorem blockSize_zero (n : Fin 8) : blockSize n 0#4 = 0 := if_pos rfl

/-- At Fh the table leaves the powers below it and gives all of memory, in both columns (C11). -/
theorem blockSize_fifteen (n : Fin 8) : blockSize n 15#4 = 2 ^ 32 := rfl

/-- Between 1h and Eh each column doubles from one SIZE to the next. -/
theorem blockSize_between {v : BitVec 4} (hlo : 1 ≤ v.toNat) (hhi : v.toNat ≤ 14) (n : Fin 8) :
    blockSize n v = if n = 7 then 2 ^ (17 + v.toNat) else 2 ^ (11 + v.toNat) := by
  have hzero : v ≠ 0#4 := by rintro rfl; exact absurd hlo (by decide)
  have hlast : v ≠ 15#4 := by rintro rfl; exact absurd hhi (by decide)
  rw [blockSize, if_neg hzero, if_neg hlast]

/-! ### Regions that are not active -/

theorem regionActive_of_size_zero {cf : ConfigFile} {n : Fin 8} (h : arrSize cf n = 0#4) : regionActive cf n = false := by
  simp [regionActive, h]

/-- With ARREN = 0 and SM3 = 0 no region is enabled (R284). -/
theorem regionActive_of_disabled {cf : ConfigFile} (harren : arren cf = false) (hsm3 : sm3 cf = false) (n : Fin 8) :
    regionActive cf n = false := by
  simp [regionActive, regionEnabled, harren, hsm3]

theorem regionHit_of_inactive {cf : ConfigFile} {n : Fin 8} (h : regionActive cf n = false) (a : Nat) :
    regionHit cf n a = false := by
  simp [regionHit, h]

theorem regionUnaligned_of_inactive {cf : ConfigFile} {n : Fin 8} (h : regionActive cf n = false) :
    regionUnaligned cf n = false := by
  simp [regionUnaligned, h]

/-- Settles O49: START and SIZE are read off the three bytes, and the table is applied to SIZE as a number. -/
theorem regionExtentFromItsBytes : Obligations.RegionExtentFromItsBytes := by
  intro cf n b0 b1 b2
  have hb0 : b0 = arrByte cf n 0 := configByte_arr cf n 0
  have hb1 : b1 = arrByte cf n 1 := configByte_arr cf n 1
  have hb2 : b2 = arrByte cf n 2 := configByte_arr cf n 2
  rw [hb0, hb1, hb2, ← toNat_arrSize, regionSize]
  refine ⟨regionStart_eq cf n, fun hsize => ?empty, fun hsize => ?whole, fun hlo hhi hn => ?column, fun hlo hhi hn => ?column7⟩
  case empty =>
    have hsize : arrSize cf n = 0#4 := BitVec.eq_of_toNat_eq hsize
    exact ⟨by rw [hsize, blockSize_zero], regionHit_of_inactive (regionActive_of_size_zero hsize)⟩
  case whole =>
    have hsize : arrSize cf n = 15#4 := BitVec.eq_of_toNat_eq hsize
    rw [hsize, blockSize_fifteen]
  case column => rw [blockSize_between hlo hhi, if_neg hn]
  case column7 => rw [blockSize_between hlo hhi, if_pos hn]

/-! ### The attributes where no region is hit -/

/-- While no active region is misaligned the resolution is not refused (R283). -/
theorem attributesOf_aligned {cf : ConfigFile} (h : regionsAligned cf) (rce ken wbwt : Bool) (a : Nat) :
    attributesOf rce cf ken wbwt a = .ok (resolveAttributes rce cf ken wbwt a) := by
  have hn : regionNumbers.find? (regionUnaligned cf) = none := List.find?_eq_none.2 fun n _ => by simp [h n]
  rw [attributesOf, hn]

theorem hitRegions_eq_nil {cf : ConfigFile} {a : Nat} (h : ∀ n, regionHit cf n a = false) : hitRegions cf a = [] :=
  List.filter_eq_nil_iff.2 fun n _ => by simp [h n]

/-- WG, WL, WWO and NLB hold nowhere outside the regions (R298). -/
@[simp] theorem givenByAll_nil (f : Fin 8 → Bool) : givenByAll [] f = false := rfl

theorem inRegion1_iff (a : Nat) : inRegion1 a = true ↔ 0xA0000 ≤ a ∧ a ≤ 0xFFFFF := by
  simp [inRegion1]

/-- Outside the regions only region 7 with RCE = 1 and NC1 can forbid caching (R291, R302). -/
theorem noncacheable_outside {cf : ConfigFile} {a : Nat} (hout : ∀ n, regionHit cf n a = false)
    (hrce : ¬ (regionActive cf 7 = true ∧ rcdRce cf 7 = true)) (hnc1 : (inRegion1 a && nc1 cf) = false) (rce : Bool) :
    noncacheable rce cf a = false := by
  have hregion7 : (regionActive cf 7 && rcdRce cf 7) = false := by simpa using hrce
  simp [noncacheable, hitRegions_eq_nil hout, hregion7, hnc1]

/-- The attributes of R298: only NO_LOCK, NC1, WPR1 and region 7 with RCE = 1 reach an address outside the regions. -/
theorem resolveAttributes_outside {cf : ConfigFile} {a : Nat} (hout : ∀ n, regionHit cf n a = false)
    (hrce : ¬ (regionActive cf 7 = true ∧ rcdRce cf 7 = true)) (hlock : noLock cf = false)
    (hnc1 : (inRegion1 a && nc1 cf) = false) (hwpr1 : (inRegion1 a && wpr1 cf) = false) (rce ken wbwt : Bool) :
    resolveAttributes rce cf ken wbwt a = ⟨true, ken, ken && wbwt, false, false, false, true, false⟩ := by
  simp [resolveAttributes, noncacheable_outside hout hrce hnc1, hitRegions_eq_nil hout, hlock, hwpr1]

/-- R298 for a file of configuration registers, with the exceptions the rule names kept out. -/
theorem attributesOf_outside {cf : ConfigFile} {a : Nat} (haligned : regionsAligned cf)
    (hout : ∀ n, regionHit cf n a = false) (hrce : ¬ (regionActive cf 7 = true ∧ rcdRce cf 7 = true))
    (hlock : noLock cf = false) (hfixed : 0xA0000 ≤ a → a ≤ 0xFFFFF → nc1 cf = false ∧ wpr1 cf = false)
    (rce ken wbwt : Bool) :
    attributesOf rce cf ken wbwt a = .ok ⟨true, ken, ken && wbwt, false, false, false, true, false⟩ := by
  have hregion1 : inRegion1 a = true → nc1 cf = false ∧ wpr1 cf = false := fun h =>
    hfixed ((inRegion1_iff a).1 h).1 ((inRegion1_iff a).1 h).2
  have hnc1 : (inRegion1 a && nc1 cf) = false := by simpa using fun h => (hregion1 h).1
  have hwpr1 : (inRegion1 a && wpr1 cf) = false := by simpa using fun h => (hregion1 h).2
  rw [attributesOf_aligned haligned, resolveAttributes_outside hout hrce hlock hnc1 hwpr1]

/-- After reset no region is active: ARREN and SM3 are 0 (R11). -/
theorem regionActive_reset (n : Fin 8) : regionActive ConfigFile.reset n = false :=
  regionActive_of_disabled rfl rfl n

/-- Settles O50: the file of reset has no active region and every bit of R298's exceptions at 0, so that the rule speaks
of every address. -/
theorem defaultAttributesOutsideRegions : Obligations.DefaultAttributesOutsideRegions := by
  refine ⟨fun cf ken wbwt rce a haligned hout hrce hlock hfixed => ?outside, fun ken wbwt rce a => ?reset⟩
  case outside => exact attributesOf_outside haligned hout hrce hlock hfixed rce ken wbwt
  case reset =>
    have haligned : regionsAligned ConfigFile.reset := fun n => regionUnaligned_of_inactive (regionActive_reset n)
    have hout : ∀ n, regionHit ConfigFile.reset n a = false := fun n => regionHit_of_inactive (regionActive_reset n) a
    have hrce : ¬ (regionActive ConfigFile.reset 7 = true ∧ rcdRce ConfigFile.reset 7 = true) := by
      simp [regionActive_reset]
    exact attributesOf_outside haligned hout hrce rfl (fun _ _ => ⟨rfl, rfl⟩) rce ken wbwt

end Sys2Proof.Machine
end

section
/-! The debug exception itself: which bits of DR6 and DR7 it writes, in what order the MOVs with a debug register stop, and
the debug effects of a task switch. From these the statements on the three. -/

namespace Sys2Proof.Machine

/-! ### What a debug exception writes -/

theorem not_gdMask : ~~~gdMask = 0xFFFFDFFF#32 := by decide

/-- GD is bit 13 of DR7 (R37). -/
theorem gdMask_getLsbD (k : Nat) : gdMask.getLsbD k = decide (k = 13) := by
  simp [show gdMask = BitVec.twoPow 32 13 from rfl, BitVec.getLsbD_twoPow, eq_comm]

/-- The L bits are the even ones among the low eight of DR7 (R37). -/
theorem localMask_getLsbD (k : Nat) : localMask.getLsbD k = decide (k = 0 ∨ k = 2 ∨ k = 4 ∨ k = 6) := by
  by_cases hk : k < 32
  · revert k; decide
  · have hout : ¬ (k = 0 ∨ k = 2 ∨ k = 4 ∨ k = 6) := by omega
    rw [BitVec.getLsbD_of_ge _ _ (by omega), decide_eq_false hout]

/-- A bit of a dword with the bits of a mask cleared. -/
theorem getLsbD_clearMask (x m : BitVec 32) (k : Nat) : (x &&& ~~~m).getLsbD k = (x.getLsbD k && !m.getLsbD k) := by
  by_cases hk : k < 32
  · simp [hk]
  · simp [BitVec.getLsbD_of_ge x k (by omega)]

theorem State.recordDebug_dr7 (s : State) (hits : List (Fin 4)) (bs bt : Bool) :
    (s.recordDebug hits bs bt).dr7 = s.dr7 &&& 0xFFFFDFFF#32 := by
  rw [← not_gdMask]; rfl

/-- "GD bit is cleared whenever a debug exception occurs" (R329), and every other bit of DR7 stays. -/
theorem State.recordDebug_dr7_bit (s : State) (hits : List (Fin 4)) (bs bt : Bool) (k : Nat) :
    (s.recordDebug hits bs bt).dr7.getLsbD k = (s.dr7.getLsbD k && decide (k ≠ 13)) := by
  rw [State.recordDebug_dr7, ← not_gdMask, getLsbD_clearMask, gdMask_getLsbD, decide_not]

theorem State.recordDebug_gd (s : State) (hits : List (Fin 4)) (bs bt : Bool) :
    (s.recordDebug hits bs bt).dr7.getLsbD 13 = false := by
  rw [State.recordDebug_dr7_bit, decide_eq_false (not_not_intro rfl), Bool.and_false]

/-- A single step sets BS (R324). -/
theorem State.recordDebug_bs (s : State) (hits : List (Fin 4)) (bt : Bool) :
    (s.recordDebug hits true bt).dr6.getLsbD 14 = true := by
  simp [State.recordDebug, bsMask]

/-- A task switch to a TSS with its T bit set sets BT (R323). -/
theorem State.recordDebug_bt (s : State) (hits : List (Fin 4)) (bs : Bool) :
    (s.recordDebug hits bs true).dr6.getLsbD 15 = true := by
  simp [State.recordDebug, btMask]

/-- Without a cause that has a bit of DR6, a debug exception writes DR7 alone. -/
theorem State.recordDebug_no_cause (s : State) :
    s.recordDebug [] false false = { s with dr7 := s.dr7 &&& 0xFFFFDFFF#32 } := by
  simp [State.recordDebug, hitBits, not_gdMask, State.setDr6, State.setDr7]

theorem sameButDebugStatus_recordDebug (s : State) (hits : List (Fin 4)) (bs bt : Bool) :
    sameButDebugStatus s (s.recordDebug hits bs bt) := rfl

/-! ### The MOVs with a debug register -/

theorem debugMove_of_unnamed {s : State} {n : DrNum} (h : n.named = false) (f : Result State) :
    debugMove s n f = .refused (.debugRegisterNumber n) := by
  simp [debugMove, h]

theorem debugMove_of_unprivileged {s : State} {n : DrNum} (hn : n.named = true) (hlevel : s.env.cpl ≠ 0#2)
    (f : Result State) : debugMove s n f = .fault (.exception .generalProtection none s.pc s) := by
  simp [debugMove, hn, hlevel, raiseException]

theorem debugMove_of_gd {s : State} {n : DrNum} (hn : n.named = true) (hlevel : s.env.cpl = 0#2)
    (hgd : s.dr7.getLsbD 13 = true) (f : Result State) :
    debugMove s n f = .fault (.exception .debug none s.pc (s.recordDebug [] false false)) := by
  simp [debugMove, hn, hlevel, gdSet, hgd, debugException, raiseException]

/-- A MOV to and a MOV from a debug register share their checks (R312, R313). -/
theorem exec_eq_debugMove {i : Instr} {n : DrNum} {r : GReg} (h : i = .movDrR32 n r ∨ i = .movR32Dr r n) (s : State) :
    ∃ f, exec i s = debugMove s n f := by
  obtain rfl | rfl := h <;> exact ⟨_, rfl⟩

/-- Settles O26: both MOVs stop where the checks they share stop. -/
theorem debugRegisterMovesTrap : Obligations.DebugRegisterMovesTrap := by
  intro n r s i hi
  obtain ⟨f, hexec⟩ := exec_eq_debugMove hi s
  rw [hexec, ← State.recordDebug_no_cause]
  exact ⟨fun hn => debugMove_of_unnamed hn f, fun hn hlevel => debugMove_of_unprivileged hn hlevel f,
    fun hn hlevel hgd => debugMove_of_gd hn hlevel hgd f⟩

/-! ### A task switch -/

/-- Every Li is in the mask of a task switch (R320). -/
theorem localMask_L (i : Fin 4) : localMask.getLsbD (2 * i.val) = true := by revert i; decide

/-- No Gi is in the mask of a task switch (R321). -/
theorem localMask_G (i : Fin 4) : localMask.getLsbD (2 * i.val + 1) = false := by revert i; decide

/-- Settles O33: the L bits are cleared by their mask, and the debug exception of the T bit clears GD beside them. -/
theorem taskSwitchClearsLocalBreakpoints : Obligations.TaskSwitchClearsLocalBreakpoints := by
  intro s
  refine ⟨⟨_, rfl, rfl, fun i => ?cleared, fun k h0 h2 h4 h6 => ?kept⟩,
    ⟨_, rfl, State.recordDebug_bt _ _ _, fun i => ⟨?trapCleared, ?trapKept⟩⟩⟩
  case cleared => rw [State.setDr7_dr7, getLsbD_clearMask, localMask_L, Bool.not_true, Bool.and_false]
  case kept =>
    have hk : localMask.getLsbD k = false := by simp [localMask_getLsbD, h0, h2, h4, h6]
    rw [State.setDr7_dr7, getLsbD_clearMask, hk, Bool.not_false, Bool.and_true]
  case trapCleared =>
    rw [State.recordDebug_dr7_bit, State.setDr7_dr7, getLsbD_clearMask, localMask_L, Bool.not_true, Bool.and_false,
      Bool.false_and]
  case trapKept =>
    have hgd : 2 * i.val + 1 ≠ 13 := by omega
    rw [State.recordDebug_dr7_bit, State.setDr7_dr7, getLsbD_clearMask, localMask_G, Bool.not_false, Bool.and_true,
      decide_eq_true hgd, Bool.and_true]

/-! ### INT 3 -/

/-- INT 3 has no outcome but its exception (R327). -/
theorem exec_int3 (s : State) : exec .int3 s = .fault (.exception .breakpoint none (s.advance 1).pc s) := rfl

/-- Settles O38: the pc reported is that of an advance past one byte. -/
theorem int3RaisesBreakpoint : Obligations.Int3RaisesBreakpoint :=
  fun s => ⟨_, exec_int3 s, pcAdvanced_advance rfl rfl 1⟩

end Sys2Proof.Machine
end

section
/-! Debug exceptions of a step: for each shared operation, once, everything it can do when it faults, down to the one
instruction check that raises a debug exception; and what a step with TF = 1 does after its instruction. From these the
statements on the clearing of GD and on the single step. -/

namespace Sys2Proof.Machine

/-! ### Faults of memory and of the ports -/

/-- A fault of memory: a byte nothing has written, or a read past the last address. It is no exception. -/
def Fault.OfMemory (r : Fault) : Prop := ∃ a, r = .unwrittenMemory a ∨ r = .outsideMemory a

theorem Fault.exception_not_ofMemory (x : ExceptionName) (k : Option (BitVec 16)) (pc : BitVec 32) (u : State) :
    ¬ (Fault.exception x k pc u).OfMemory := by
  rintro ⟨a, h | h⟩ <;> cases h

theorem checkAccess_fault {s : State} {a : BitVec 32} {w : Width} {r : Fault} (h : s.checkAccess a w = .fault r) :
    r.OfMemory := by
  unfold State.checkAccess at h
  split at h
  · cases h
  · split at h
    · cases h
      exact ⟨_, .inr rfl⟩
    · split at h <;> cases h

theorem memRead_fault {s : State} {a : BitVec 32} {w : Width} {r : Fault} (h : s.memRead a w = .fault r) :
    r.OfMemory := by
  obtain h | ⟨t, -, h⟩ := andThen_fault.1 h
  · exact checkAccess_fault h
  · split at h
    · cases h
      exact ⟨_, .inl rfl⟩
    · cases h

theorem readRow_fault {s : State} {base : BitVec 32} {offset : Nat} {w : Width} {r : Fault}
    (h : s.readRow base offset w = .fault r) : r.OfMemory := by
  unfold State.readRow at h
  split at h
  · cases h
    exact ⟨_, .inr rfl⟩
  · exact memRead_fault h

theorem readDescriptor_fault {s : State} {d : BitVec 32} {r : Fault} (h : s.readDescriptor d = .fault r) :
    r.OfMemory := by
  obtain h | ⟨lo, -, h⟩ := andThen_fault.1 h
  · exact readRow_fault h
  · obtain h | ⟨hi, -, h⟩ := andThen_fault.1 h
    · exact readRow_fault h
    · cases h

theorem fetch_fault {s : State} {r : Fault} (h : s.fetch = .fault r) : r.OfMemory := by
  unfold State.fetch at h
  split at h
  · cases h
  · split at h <;> cases h
    exact ⟨_, .inl rfl⟩

theorem configWrite_ne_fault (s : State) (i v : BitVec 8) (r : Fault) : configWrite s i v ≠ .fault r := by
  unfold configWrite
  split
  · simp
  · split <;> simp

theorem armedWrite_ne_fault (s : State) (v : BitVec 8) (r : Fault) : armedWrite s v ≠ .fault r := by
  unfold armedWrite
  split
  · exact configWrite_ne_fault _ _ _ r
  all_goals simp

theorem armedRead_ne_fault (s : State) (r : Fault) : armedRead s ≠ .fault r := by
  unfold armedRead
  split <;> simp

/-- A port write goes on or is refused (R355, R229, R230, R12). -/
theorem ioWrite8_ne_fault (s : State) (port : BitVec 16) (v : BitVec 8) (r : Fault) : ioWrite8 s port v ≠ .fault r := by
  unfold ioWrite8
  split
  · simp
  · split
    · simp
    · split
      · split
        · exact armedWrite_ne_fault s v r
        · simp
      · simp

/-- A port read goes on or is refused (R355, R222, R229). -/
theorem ioRead8_ne_fault (s : State) (port : BitVec 16) (r : Fault) : ioRead8 s port ≠ .fault r := by
  unfold ioRead8
  split
  · simp
  · split
    · split <;> simp
    · split
      · split
        · exact armedRead_ne_fault s r
        · simp
      · simp

theorem outByte_ne_fault (s : State) (port : BitVec 16) (n : Nat) (r : Fault) : outByte s port n ≠ .fault r := by
  intro h
  obtain h | ⟨t, -, h⟩ := andThen_fault.1 h
  · exact ioWrite8_ne_fault _ _ _ r h
  · cases h

theorem inByte_ne_fault (s : State) (port : BitVec 16) (n : Nat) (r : Fault) : inByte s port n ≠ .fault r := by
  intro h
  obtain h | ⟨t, -, h⟩ := andThen_fault.1 h
  · exact ioRead8_ne_fault _ _ r h
  · cases h

/-! ### Debug exceptions of an instruction -/

/-- A MOV with a debug register whose move itself does not fault has one debug exception, that of GD (R330). -/
theorem debugMove_debug {s t u : State} {n : DrNum} {k : Option (BitVec 16)} {pc : BitVec 32}
    (h : debugMove s n (.next t) = .fault (.exception .debug k pc u)) :
    s.dr7.getLsbD 13 = true ∧ u = s.recordDebug [] false false := by
  unfold debugMove at h
  split at h
  · cases h
  · split at h
    · cases h
    · split at h
      next hgd =>
        cases h
        exact ⟨hgd, rfl⟩
      next => cases h

/-- LTR raises exceptions, none of them a debug exception. -/
theorem execLtr_ne_debug (r : GReg) (s : State) (k : Option (BitVec 16)) (pc : BitVec 32) (u : State) :
    execLtr r s ≠ .fault (.exception .debug k pc u) := by
  intro h
  unfold execLtr at h
  split at h
  · cases h
  · split at h
    · cases h
    · split at h
      · cases h
      · split at h
        · cases h
        · obtain h | ⟨x, -, h⟩ := andThen_fault.1 h
          · exact Fault.exception_not_ofMemory _ _ _ _ (readDescriptor_fault h)
          · split at h <;> cases h

/-- The one debug exception an instruction raises by itself: a MOV with a debug register met GD = 1 (R330). -/
theorem exec_debug {i : Instr} {s u : State} {k : Option (BitVec 16)} {pc : BitVec 32}
    (h : exec i s = .fault (.exception .debug k pc u)) :
    s.dr7.getLsbD 13 = true ∧ u = s.recordDebug [] false false := by
  cases i with
  | movR32Dr r n => exact debugMove_debug h
  | movDrR32 n r => exact debugMove_debug h
  | ltr r => exact absurd h (execLtr_ne_debug r s k pc u)
  | str r =>
    simp only [exec, execStr] at h
    split at h <;> cases h
  | hlt =>
    simp only [exec, execHlt] at h
    split at h <;> cases h
  | loop rel =>
    simp only [exec, execLoop] at h
    split at h <;> cases h
  | cpuid =>
    simp only [exec, execCpuid] at h
    split at h <;> cases h
  | int3 => cases h
  | outImmAl p => exact absurd h (outByte_ne_fault _ _ _ _)
  | inAlImm p => exact absurd h (inByte_ne_fault _ _ _ _)
  | outDxAl => exact absurd h (outByte_ne_fault _ _ _ _)
  | inAlDx => exact absurd h (inByte_ne_fault _ _ _ _)
  | movR8Imm r imm => cases h
  | movR8R8 d r => cases h

/-! ### The checks around an instruction -/

/-- The check before an instruction faults with the debug exception of an execution breakpoint alone (R328). -/
theorem beforeInstruction_fault {s : State} {r : Fault} (h : s.beforeInstruction = .fault r) :
    r = .exception .debug none s.pc (s.recordDebug (executionHits s) false false) := by
  unfold State.beforeInstruction at h
  split at h
  · cases h
  · split at h <;> cases h
    rfl

/-- The check after an instruction faults with the debug exception of a single step or a data breakpoint alone (R332). -/
theorem afterInstruction_fault {t : State} {b : Bool} {r : Fault} (h : t.afterInstruction b = .fault r) :
    r = .exception .debug none t.nextPc (t.recordDebug (dataHits t) b false) := by
  unfold State.afterInstruction at h
  split at h <;> cases h
  rfl

/-- With TF = 1 as the instruction began, the check after it is a debug exception, whatever the breakpoints are (R324). -/
theorem afterInstruction_stepping (t : State) :
    t.afterInstruction true = .fault (.exception .debug none t.nextPc (t.recordDebug (dataHits t) true false)) := by
  rw [State.afterInstruction, Bool.true_or, if_pos rfl]
  rfl

/-! ### The instruction inside a step -/

@[simp] theorem State.passQuiet_tf (s : State) : s.passQuiet.tf = s.tf := by
  rw [State.tf, State.passQuiet_eflags, ← State.tf]

/-- The list of data accesses is no part of what a fetch reads. -/
theorem State.clearAccesses_fetchFrom (s : State) (n k : Nat) : s.clearAccesses.fetchFrom n k = s.fetchFrom n k := by
  induction n generalizing k with
  | zero => rfl
  | succ n ih =>
    simp only [State.fetchFrom, ih]
    rfl

@[simp] theorem State.clearAccesses_fetchBytes (s : State) : s.clearAccesses.fetchBytes = s.fetchBytes :=
  State.clearAccesses_fetchFrom s longestInstr 0

/-- An instruction inside the debug procedure that faults: the check before it, the fetch, the instruction itself, or the
check after it. -/
theorem runInstruction_fault {s : State} {r : Fault} (h : runInstruction s = .fault r) :
    s.beforeInstruction = .fault r ∨ s.clearAccesses.fetch = .fault r ∨
      ∃ i, s.clearAccesses.fetch = .next i ∧
        (exec i s.clearAccesses = .fault r ∨
          ∃ t, exec i s.clearAccesses = .next t ∧ t.afterInstruction s.tf = .fault r) := by
  obtain h | ⟨s1, h1, h⟩ := andThen_fault.1 h
  · exact .inl h
  · obtain ⟨-, -, rfl⟩ := beforeInstruction_next h1
    obtain h | ⟨i, hi, h⟩ := andThen_fault.1 h
    · exact .inr (.inl h)
    · exact .inr (.inr ⟨i, hi, andThen_fault.1 h⟩)

/-- No event is an exception: an SMI, an NMI and a hardware interrupt are faults of their own (R365). -/
theorem takeEvent_ne_exception (e : Event) (s : State) (x : ExceptionName) (k : Option (BitVec 16)) (pc : BitVec 32)
    (u : State) : takeEvent e s ≠ .fault (.exception x k pc u) := by
  cases e with
  | smi =>
    simp only [takeEvent]
    split
    · simp
    · split <;> simp
  | nmi =>
    simp only [takeEvent]
    split <;> simp
  | suspendRequest =>
    simp only [takeEvent]
    split <;> simp
  | quiet | reset | hardwareInterrupt | environment | taskSwitch | gateTransfer => simp [takeEvent]

/-- Where no event arrives, an exception is that of the instruction that runs, or the one `runOn` was given. -/
theorem runOn_exception {s u : State} {o : Host.Outcome State Fault Refusal} {x : ExceptionName}
    {k : Option (BitVec 16)} {pc : BitVec 32} (h : runOn s o = .fault (.exception x k pc u)) :
    runInstruction s = .fault (.exception x k pc u) ∨ o = .fault (.exception x k pc u) := by
  unfold runOn at h
  split at h
  · cases h
  · split at h
    · exact .inl h
    · exact .inr h

/-- Every exception of a step is one of the instruction it runs. -/
theorem step_exception {s u : State} {x : ExceptionName} {k : Option (BitVec 16)} {pc : BitVec 32}
    (h : step s = .fault (.exception x k pc u)) : runInstruction s.passQuiet = .fault (.exception x k pc u) := by
  unfold step at h
  split at h
  next he =>
    obtain h | h := runOn_exception h
    · rwa [State.passQuiet_of_nil he]
    · cases h
  next he =>
    obtain h | h := runOn_exception h
    · rwa [State.passQuiet_of_quiet he]
    · cases h
  next => exact absurd h (takeEvent_ne_exception _ _ _ _ _ _)

/-- Settles O27: a debug exception comes from the check before the instruction, from GD, or from the check after it, and
each records it with `State.recordDebug`. -/
theorem debugExceptionClearsGd : Obligations.DebugExceptionClearsGd := by
  intro s u k pc h
  obtain h | h | ⟨i, hi, h⟩ := runInstruction_fault (step_exception h)
  case inl =>
    obtain ⟨⟩ := beforeInstruction_fault h
    exact ⟨State.recordDebug_gd _ _ _ _,
      .inl ⟨by rw [State.recordDebug_dr7, State.passQuiet_dr7], .inl h⟩⟩
  case inr.inl => exact absurd (fetch_fault h) (Fault.exception_not_ofMemory _ _ _ _)
  case inr.inr =>
    obtain ⟨-, rest, hdecode⟩ := fetch_next hi
    rw [State.clearAccesses_fetchBytes] at hdecode
    obtain h | ⟨t, ht, h⟩ := h
    · obtain ⟨-, rfl⟩ := exec_debug h
      exact ⟨State.recordDebug_gd _ _ _ _,
        .inl ⟨by rw [State.recordDebug_dr7, State.clearAccesses_dr7, State.passQuiet_dr7],
          .inr ⟨i, rest, hdecode, h⟩⟩⟩
    · rw [State.passQuiet_tf] at h
      obtain ⟨⟩ := afterInstruction_fault h
      exact ⟨State.recordDebug_gd _ _ _ _,
        .inr ⟨i, rest, t, hdecode, ht, h, State.recordDebug_dr7 _ _ _ _⟩⟩

/-! ### The single step -/

/-- A step that is ready, with nothing to report before its instruction, is the instruction the bytes at `pc` decode to and
the check after it. -/
theorem step_of_decode {s : State} {i : Instr} {rest : List Byte} (hready : readyToRun s)
    (hbefore : s.passQuiet.beforeInstruction = .next s.passQuiet.clearAccesses) (haligned : regionsAligned s.cfg)
    (hdecode : decode s.passQuiet.fetchBytes.1 = .ok (i, rest)) :
    step s = andThen (exec i s.passQuiet.clearAccesses) fun t => t.afterInstruction s.tf := by
  have hfetch : s.passQuiet.clearAccesses.fetch = .next i :=
    fetch_of_decode (by simpa using haligned) (by simpa using hdecode)
  rw [step_readyToRun hready, runInstruction, hbefore, andThen_of_next, hfetch, andThen_of_next, State.passQuiet_tf]

theorem outByte_activity {s t : State} {port : BitVec 16} {n : Nat} (h : outByte s port n = .next t) :
    t.activity = s.activity := by
  obtain ⟨u, hu, rfl⟩ := outByte_next h
  rw [State.advance_activity]
  obtain ⟨-, ⟨-, rfl⟩ | ⟨-, -, hu⟩ | ⟨-, -, rfl⟩⟩ := ioWrite8_next hu
  · rfl
  · obtain ⟨-, hu⟩ | ⟨-, rfl⟩ := armedWrite_next hu
    · obtain ⟨-, rfl⟩ | ⟨-, -, rfl⟩ := configWrite_next hu <;> rfl
    · rfl
  · rfl

theorem inByte_activity {s t : State} {port : BitVec 16} {n : Nat} (h : inByte s port n = .next t) :
    t.activity = s.activity := by
  obtain ⟨r, hr, rfl⟩ := inByte_next h
  rw [State.advance_activity]
  obtain ⟨-, ⟨-, -, hr⟩ | ⟨-, rfl⟩⟩ := ioRead8_next hr
  · obtain ⟨-, rfl⟩ | ⟨-, rfl⟩ | ⟨-, rfl⟩ := armedRead_next hr <;> rfl
  · rfl

/-- HLT is the only instruction that ends the run (R270). -/
theorem exec_activity {i : Instr} {s t : State} (hi : i ≠ .hlt) (h : exec i s = .next t) : t.activity = s.activity := by
  cases i with
  | hlt => exact absurd rfl hi
  | outImmAl p => exact outByte_activity h
  | outDxAl => exact outByte_activity h
  | inAlImm p => exact inByte_activity h
  | inAlDx => exact inByte_activity h
  | ltr r =>
    obtain ⟨-, -, -, d, x, -, hx, -, rfl⟩ := execLtr_next h
    obtain ⟨a, b, hab⟩ := readDescriptor_state hx
    simp [hab]
  | str r =>
    obtain ⟨-, rfl⟩ := execStr_next h
    simp
  | movR32Dr r n =>
    obtain ⟨-, -, -, h⟩ := debugMove_next h
    cases h
    cases n <;> simp [State.readDr]
  | movDrR32 n r =>
    obtain ⟨-, -, -, h⟩ := debugMove_next h
    cases h
    cases n <;> simp [State.writeDr]
  | loop rel =>
    rw [execLoop_next h]
    split <;> simp
  | cpuid =>
    simp only [exec, execCpuid] at h
    split at h <;> simp at h
  | int3 => simp [exec, execInt3] at h
  | movR8Imm r imm =>
    cases h
    simp
  | movR8R8 d r =>
    cases h
    simp

/-- After a HLT the next instruction is at the byte after it, wherever that stays in the range of the program counter. -/
theorem nextPc_of_hlt {s t : State} (h : exec .hlt s = .next t) (hpc : s.pc.toNat + 1 < s.pcLimit) :
    t.nextPc = s.pc + 1#32 := by
  obtain ⟨-, rfl⟩ := execHlt_next h
  refine State.nextPc_stopped ?_ hpc
  rw [State.setActivity_activity]
  split <;> simp

/-- Settles O30: the check after the instruction cannot pass with TF = 1, and the next instruction is at the pc it left
unless it ended the run. -/
theorem singleStepFollowsTheInstruction : Obligations.SingleStepFollowsTheInstruction := by
  rintro s v t i rest hready rfl htf hbefore haligned hdecode hexec
  have hstep : step s = .fault (.exception .debug none t.nextPc (t.recordDebug (dataHits t) true false)) := by
    rw [step_of_decode hready hbefore haligned hdecode, hexec, andThen_of_next, htf, afterInstruction_stepping]
  obtain ⟨-, -, hrunning⟩ := hready
  refine ⟨_, _, hstep, fun hi => ?running, ?hlt, sameButDebugStatus_recordDebug _ _ _ _, State.recordDebug_bs _ _ _,
    State.recordDebug_dr7 _ _ _ _⟩
  case running =>
    have hactivity : t.activity = .running := by
      rw [exec_activity hi hexec, State.clearAccesses_activity, State.passQuiet_activity, hrunning]
    exact State.nextPc_running hactivity
  case hlt =>
    rintro rfl hpc
    have hlimit : s.passQuiet.clearAccesses.pcLimit = s.pcLimit := State.pcLimit_congr (by simp)
    rw [nextPc_of_hlt hexec (by simpa [hlimit] using hpc), State.clearAccesses_pc, State.passQuiet_pc]

end Sys2Proof.Machine
end

section
/-! The decoder and the encoder: the fields of a ModRM byte, what `decode` answers at each opcode, and what bytes it can have
read when it answers an instruction. From these the round trip in both directions, the forms that are rejected and the
words of the spec. -/

namespace Sys2Proof

/-! ### Register numbers and the ModRM byte -/

@[simp] theorem GReg.ofBits_bits (r : GReg) : GReg.ofBits r.bits = r := by cases r <;> rfl
@[simp] theorem Reg8.ofBits_bits (r : Reg8) : Reg8.ofBits r.bits = r := by cases r <;> rfl
@[simp] theorem DrNum.ofBits_bits (n : DrNum) : DrNum.ofBits n.bits = n := by cases n <;> rfl

@[simp] theorem GReg.bits_ofBits (b : BitVec 3) : (GReg.ofBits b).bits = b := by revert b; decide
@[simp] theorem Reg8.bits_ofBits (b : BitVec 3) : (Reg8.ofBits b).bits = b := by revert b; decide
@[simp] theorem DrNum.bits_ofBits (b : BitVec 3) : (DrNum.ofBits b).bits = b := by revert b; decide

@[simp] theorem modField_modrmByte (reg rm : BitVec 3) : modField (modrmByte reg rm) = 3#2 := by
  revert reg rm; decide
@[simp] theorem regField_modrmByte (reg rm : BitVec 3) : regField (modrmByte reg rm) = reg := by
  revert reg rm; decide
@[simp] theorem rmField_modrmByte (reg rm : BitVec 3) : rmField (modrmByte reg rm) = rm := by
  revert reg rm; decide

/-- With `mod` = 11b a ModRM byte is its two register fields (R142). -/
theorem modrmByte_fields {m : Byte} (h : modField m = 3#2) : modrmByte (regField m) (rmField m) = m := by
  revert m; decide

/-! ### What the decoder answers -/

@[simp] theorem withByte_cons (b : Byte) (bs : List Byte) (f : Byte → List Byte → Decoded) :
    withByte (b :: bs) f = f b bs := rfl

@[simp] theorem withModrm_modrmByte (reg rm : BitVec 3) (bs : List Byte)
    (f : (reg rm : BitVec 3) → List Byte → Decoded) : withModrm (modrmByte reg rm :: bs) f = f reg rm bs := by
  simp [withModrm]

/-- A memory operand is rejected (R142). -/
theorem withModrm_memory {m : Byte} (h : modField m ≠ 3#2) (bs : List Byte)
    (f : (reg rm : BitVec 3) → List Byte → Decoded) : withModrm (m :: bs) f = .error .modNotRegister :=
  if_neg h

theorem decode_group6 (bs : List Byte) : decode (0x0F#8 :: 0x00#8 :: bs) = decodeGroup6 bs := rfl

theorem decode_movR32Dr (bs : List Byte) : decode (0x0F#8 :: 0x21#8 :: bs) =
    withModrm bs fun reg rm r => .ok (.movR32Dr (GReg.ofBits rm) (DrNum.ofBits reg), r) := rfl

theorem decode_movDrR32 (bs : List Byte) : decode (0x0F#8 :: 0x23#8 :: bs) =
    withModrm bs fun reg rm r => .ok (.movDrR32 (DrNum.ofBits reg) (GReg.ofBits rm), r) := rfl

theorem decode_movR8R8 (bs : List Byte) : decode (0x88#8 :: bs) =
    withModrm bs fun reg rm r => .ok (.movR8R8 (Reg8.ofBits rm) (Reg8.ofBits reg), r) := rfl

/-- The eight opcodes from B0h on are MOV r8, imm8 and no other instruction (R155). -/
theorem decode_movR8Imm (r : BitVec 3) (imm : Byte) (bs : List Byte) :
    decode ((0x16#5 ++ r) :: imm :: bs) = .ok (.movR8Imm (Reg8.ofBits r) imm, bs) := by
  have hlow : rmField (0x16#5 ++ r) = r := by revert r; decide
  have hhigh : (0x16#5 ++ r).extractLsb' 3 5 = 0x16#5 := by revert r; decide
  have hother : ∀ op ∈ [0x0F#8, 0xF4#8, 0xE2#8, 0xCC#8, 0xE6#8, 0xE4#8, 0xEE#8, 0xEC#8], 0x16#5 ++ r ≠ op := by
    revert r; decide
  simp only [List.mem_cons, List.not_mem_nil, or_false, forall_eq_or_imp, forall_eq] at hother
  obtain ⟨h0, h1, h2, h3, h4, h5, h6, h7⟩ := hother
  simp only [decode, withByte_cons, h0, h1, h2, h3, h4, h5, h6, h7, hhigh, hlow, if_true, if_false]

/-- A group 6 digit of LTR or STR with a memory operand is rejected (R144). -/
theorem decodeGroup6_memory {m : Byte} (hdigit : regField m = 1#3 ∨ regField m = 3#3) (hmod : modField m ≠ 3#2)
    (bs : List Byte) : decodeGroup6 (m :: bs) = .error .modNotRegister :=
  (if_pos hdigit).trans (if_neg hmod)

theorem decodeGroup6_otherDigit {m : Byte} (h1 : regField m ≠ 1#3) (h3 : regField m ≠ 3#3) (bs : List Byte) :
    decodeGroup6 (m :: bs) = .error .outsideSpec :=
  if_neg (not_or.2 ⟨h1, h3⟩)

/-- Settles O1: each instruction's opcode picks its own branch of the decoder, and the fields of its operand byte are the
numbers the encoder put there. -/
theorem decodeAfterEncode : Obligations.DecodeAfterEncode := by
  intro i rest
  cases i with
  | ltr r => simp [encode, decode_group6, decodeGroup6]
  | str r => simp [encode, decode_group6, decodeGroup6]
  | movR32Dr r n => simp [encode, decode_movR32Dr]
  | movDrR32 n r => simp [encode, decode_movDrR32]
  | movR8Imm r imm => simp [encode, decode_movR8Imm]
  | movR8R8 d r => simp [encode, decode_movR8R8]
  | hlt | loop | cpuid | int3 | outImmAl | inAlImm | outDxAl | inAlDx => rfl

/-- Settles O4: the opcode leads to the check of `mod`, to the check of the digit, or to no instruction. -/
theorem unadmittedFormsAreRejected : Obligations.UnadmittedFormsAreRejected := by
  refine ⟨fun m rest hmod => ⟨?_, ?_, ?_, fun hdigit => ?_⟩, fun m rest h1 h3 => ?_, fun rest => ?_⟩
  · rw [decode_movR32Dr, withModrm_memory hmod]
  · rw [decode_movDrR32, withModrm_memory hmod]
  · rw [decode_movR8R8, withModrm_memory hmod]
  · rw [decode_group6, decodeGroup6_memory hdigit hmod]
  · rw [decode_group6, decodeGroup6_otherDigit h1 h3]
  · exact ⟨rfl, rfl, rfl, rfl, rfl, rfl, rfl, rfl, rfl, rfl⟩

/-- Settles O3: each word is the encoding of its instruction, with no bytes after it. -/
theorem decodeReadsTheSpecWords : Obligations.DecodeReadsTheSpecWords :=
  have word (i : Instr) : decode (encode i ++ []) = .ok (i, []) := decodeAfterEncode i []
  ⟨word (.movR8Imm .al 0xC3#8), word (.movR8Imm .bh 0x01#8), word (.movR8R8 .bl .al), word (.outImmAl 0x22#8),
    word (.inAlImm 0x23#8), word .outDxAl, word .inAlDx, word (.ltr .a), word (.str .b), word (.movDrR32 .dr7 .a),
    word (.movR32Dr .b .dr6), word (.loop 0xFE#8), word .hlt, word .cpuid, word .int3⟩

/-! ### What bytes it can have read -/

/-- The opcode of MOV r8, imm8 is B0h with the register in its low bits (R155). -/
theorem movR8ImmOpcode_fields {op : Byte} (h : op.extractLsb' 3 5 = 0x16#5) : 0x16#5 ++ rmField op = op := by
  revert op; decide

theorem withByte_ok {bs : List Byte} {f : Byte → List Byte → Decoded} {x : Instr × List Byte}
    (h : withByte bs f = .ok x) : ∃ b rest, bs = b :: rest ∧ f b rest = .ok x := by
  cases bs with
  | nil => cases h
  | cons b rest => exact ⟨b, rest, rfl, h⟩

theorem withModrm_ok {bs : List Byte} {f : (reg rm : BitVec 3) → List Byte → Decoded} {x : Instr × List Byte}
    (h : withModrm bs f = .ok x) : ∃ reg rm rest, bs = modrmByte reg rm :: rest ∧ f reg rm rest = .ok x := by
  obtain ⟨m, rest, rfl, hm⟩ := withByte_ok h
  split at hm
  next hmod => exact ⟨regField m, rmField m, rest, by rw [modrmByte_fields hmod], hm⟩
  next => cases hm

theorem decodeGroup6_ok {bs rest : List Byte} {i : Instr} (h : decodeGroup6 bs = .ok (i, rest)) :
    0x0F#8 :: 0x00#8 :: bs = encode i ++ rest := by
  obtain ⟨m, r, rfl, hm⟩ := withByte_ok h
  split at hm
  next hdigit =>
    split at hm
    next hmod =>
      have hfields := modrmByte_fields hmod
      split at hm
      next hstr =>
        cases hm
        rw [hstr] at hfields
        simp [encode, hfields]
      next hltr =>
        cases hm
        rw [hdigit.resolve_left hltr] at hfields
        simp [encode, hfields]
    next => cases hm
  next => cases hm

theorem decodeEscape_ok {bs rest : List Byte} {i : Instr} (h : decodeEscape bs = .ok (i, rest)) :
    0x0F#8 :: bs = encode i ++ rest := by
  obtain ⟨op, r, rfl, hop⟩ := withByte_ok h
  split_ifs at hop with hgroup hfrom hto hcpuid htest
  · rw [hgroup, decodeGroup6_ok hop]
  · obtain ⟨reg, rm, r, rfl, hbyte⟩ := withModrm_ok hop
    cases hbyte
    simp [encode, hfrom]
  · obtain ⟨reg, rm, r, rfl, hbyte⟩ := withModrm_ok hop
    cases hbyte
    simp [encode, hto]
  · cases hop
    simp [encode, hcpuid]

/-- Settles O2: in each branch of the decoder that answers an instruction, the bytes taken are those the encoder writes. -/
theorem decodedBytesAreTheEncoding : Obligations.DecodedBytesAreTheEncoding := by
  intro bs rest i h
  obtain ⟨op, r, rfl, hop⟩ := withByte_ok h
  obtain ⟨hescape, hop⟩ | ⟨-, hop⟩ := ite_eq_iff.1 hop
  · rw [hescape, decodeEscape_ok hop]
  obtain ⟨hhlt, hop⟩ | ⟨-, hop⟩ := ite_eq_iff.1 hop
  · cases hop
    simp [encode, hhlt]
  obtain ⟨hloop, hop⟩ | ⟨-, hop⟩ := ite_eq_iff.1 hop
  · obtain ⟨rel, r, rfl, hbyte⟩ := withByte_ok hop
    cases hbyte
    simp [encode, hloop]
  obtain ⟨hint3, hop⟩ | ⟨-, hop⟩ := ite_eq_iff.1 hop
  · cases hop
    simp [encode, hint3]
  obtain ⟨hout, hop⟩ | ⟨-, hop⟩ := ite_eq_iff.1 hop
  · obtain ⟨port, r, rfl, hbyte⟩ := withByte_ok hop
    cases hbyte
    simp [encode, hout]
  obtain ⟨hin, hop⟩ | ⟨-, hop⟩ := ite_eq_iff.1 hop
  · obtain ⟨port, r, rfl, hbyte⟩ := withByte_ok hop
    cases hbyte
    simp [encode, hin]
  obtain ⟨houtDx, hop⟩ | ⟨-, hop⟩ := ite_eq_iff.1 hop
  · cases hop
    simp [encode, houtDx]
  obtain ⟨hinDx, hop⟩ | ⟨-, hop⟩ := ite_eq_iff.1 hop
  · cases hop
    simp [encode, hinDx]
  obtain ⟨himm, hop⟩ | ⟨-, hop⟩ := ite_eq_iff.1 hop
  · obtain ⟨imm, r, rfl, hbyte⟩ := withByte_ok hop
    cases hbyte
    simp [encode, movR8ImmOpcode_fields himm]
  obtain ⟨hmov, hop⟩ | ⟨-, hop⟩ := ite_eq_iff.1 hop
  · obtain ⟨reg, rm, r, rfl, hbyte⟩ := withModrm_ok hop
    cases hbyte
    simp [encode, hmov]
  obtain ⟨-, hop⟩ | ⟨-, hop⟩ := ite_eq_iff.1 hop
  · cases hop
  · obtain ⟨-, hop⟩ | ⟨-, hop⟩ := ite_eq_iff.1 hop <;> cases hop

end Sys2Proof
end

section
/-! What an instruction and a step leave as they are: the frame every instruction keeps, the two instructions that write more
than their registers, and the bits of a configuration register a store keeps. From these the invariant and the statements on
what only one instruction, one port or the platform changes. -/

namespace Sys2Proof.Machine

/-! ### The frame of an instruction -/

/-- Memory, the system registers, the Task Register, the debug registers, the inputs and the data accesses are as before: the
frame of every instruction but LTR and MOV DRn, r32. -/
structure SystemFrame (s t : State) : Prop where
  mem : t.mem = s.mem
  smmMem : t.smmMem = s.smmMem
  system : sameSystem s t
  env : t.env = s.env
  taskRegister : sameTaskRegister s t
  access : noAccess s t
  debug : sameDebug s t

/-- The fields outside the frame. -/
theorem SystemFrame.of_update (s : State) (gpr : Vector (BitVec 32) 8) (pc : BitVec 32) (cfg : ConfigFile)
    (index : BitVec 8) (armed : Bool) (activity : Activity) (cycles : List IoCycle) (draws : Nat) :
    SystemFrame s { s with gpr := gpr, pc := pc, cfg := cfg, cfgIndex := index, cfgArmed := armed, activity := activity,
                           ioCycles := cycles, draws := draws } where
  mem := rfl
  smmMem := rfl
  system := ⟨rfl, rfl, rfl, rfl⟩
  env := rfl
  taskRegister := ⟨rfl, rfl, rfl⟩
  access := rfl
  debug := ⟨rfl, rfl, rfl⟩

theorem SystemFrame.advance {s t : State} (h : SystemFrame s t) (n : Nat) : SystemFrame s (t.advance n) where
  mem := (State.advance_mem t n).trans h.mem
  smmMem := (State.advance_smmMem t n).trans h.smmMem
  system := by simpa [sameSystem] using h.system
  env := (State.advance_env t n).trans h.env
  taskRegister := by simpa [sameTaskRegister] using h.taskRegister
  access := (State.advance_accesses t n).trans h.access
  debug := by simpa [sameDebug] using h.debug

theorem outByte_systemFrame {s t : State} {port : BitVec 16} {n : Nat} (h : outByte s port n = .next t) :
    SystemFrame s t := by
  obtain ⟨u, hu, rfl⟩ := outByte_next h
  refine SystemFrame.advance ?_ n
  obtain ⟨-, ⟨-, rfl⟩ | ⟨-, -, hu⟩ | ⟨-, -, rfl⟩⟩ := ioWrite8_next hu
  · exact .of_update ..
  · obtain ⟨-, hu⟩ | ⟨-, rfl⟩ := armedWrite_next hu
    · obtain ⟨-, rfl⟩ | ⟨-, -, rfl⟩ := configWrite_next hu <;> exact .of_update ..
    · exact .of_update ..
  · exact .of_update ..

theorem inByte_systemFrame {s t : State} {port : BitVec 16} {n : Nat} (h : inByte s port n = .next t) :
    SystemFrame s t := by
  obtain ⟨r, hr, rfl⟩ := inByte_next h
  refine SystemFrame.advance ?_ n
  obtain ⟨-, ⟨-, -, hr⟩ | ⟨-, rfl⟩⟩ := ioRead8_next hr
  · obtain ⟨-, rfl⟩ | ⟨-, rfl⟩ | ⟨-, rfl⟩ := armedRead_next hr <;> exact .of_update ..
  · exact .of_update ..

/-- Every instruction but LTR and MOV DRn, r32 keeps the frame. -/
theorem exec_systemFrame {i : Instr} {s t : State} (hltr : ∀ r, i ≠ .ltr r) (hmov : ∀ n r, i ≠ .movDrR32 n r)
    (h : exec i s = .next t) : SystemFrame s t := by
  cases i with
  | ltr r => exact absurd rfl (hltr r)
  | movDrR32 n r => exact absurd rfl (hmov n r)
  | outImmAl p => exact outByte_systemFrame h
  | outDxAl => exact outByte_systemFrame h
  | inAlImm p => exact inByte_systemFrame h
  | inAlDx => exact inByte_systemFrame h
  | str r =>
    obtain ⟨-, rfl⟩ := execStr_next h
    exact (SystemFrame.of_update ..).advance 3
  | movR32Dr r n =>
    obtain ⟨-, -, -, h⟩ := debugMove_next h
    cases h
    refine SystemFrame.advance ?_ 3
    cases n <;> exact .of_update ..
  | hlt =>
    obtain ⟨-, rfl⟩ := execHlt_next h
    exact .of_update ..
  | loop rel =>
    have hdec : SystemFrame s s.decLoopCount := by
      unfold State.decLoopCount
      split <;> exact .of_update ..
    rw [execLoop_next h]
    split
    · exact hdec.advance 2
    · exact { hdec with }
  | cpuid =>
    simp only [exec, execCpuid] at h
    split at h <;> simp at h
  | int3 => simp [exec, execInt3] at h
  | movR8Imm r imm =>
    cases h
    exact (SystemFrame.of_update ..).advance 2
  | movR8R8 d r =>
    cases h
    exact (SystemFrame.of_update ..).advance 2

/-! ### The two instructions that write more -/

/-- LTR writes the Task Register and records its data accesses. -/
theorem exec_ltr_frame {r : GReg} {s t : State} (h : exec (.ltr r) s = .next t) :
    t.mem = s.mem ∧ t.smmMem = s.smmMem ∧ sameSystem s t ∧ t.env = s.env ∧ sameDebug s t := by
  obtain ⟨-, -, -, d, x, -, hx, -, rfl⟩ := execLtr_next h
  obtain ⟨a, b, hab⟩ := readDescriptor_state hx
  simp [hab, sameSystem, sameDebug]

theorem exec_movDrR32_next {n : DrNum} {r : GReg} {s t : State} (h : exec (.movDrR32 n r) s = .next t) :
    t = (s.writeDr n (s.reg32 r)).advance 3 := by
  obtain ⟨-, -, -, h⟩ := debugMove_next h
  cases h
  rfl

theorem State.setDr_get (s : State) (j i : Fin 4) (v : BitVec 32) :
    (s.setDr j v).dr[i] = if j = i then v else s.dr[i] := by
  simp [Vector.getElem_set, Fin.ext_iff]

theorem State.writeDr_dr (s : State) (n : DrNum) (v : BitVec 32) (i : Fin 4) :
    (s.writeDr n v).dr[i] = if drAddress n = some i then v else s.dr[i] := by
  cases n with
  | dr0 | dr1 | dr2 | dr3 =>
    refine (State.setDr_get s _ i v).trans ?_
    simp [drAddress]
  | dr4 | dr5 | dr6 | dr7 => simp [State.writeDr, drAddress]

@[simp] theorem State.writeDr_dr6 (s : State) (n : DrNum) (v : BitVec 32) :
    (s.writeDr n v).dr6 = if n = .dr6 then v &&& dr6Mask else s.dr6 := by
  cases n <;> rfl

@[simp] theorem State.writeDr_dr7 (s : State) (n : DrNum) (v : BitVec 32) :
    (s.writeDr n v).dr7 = if n = .dr7 then v &&& dr7Mask else s.dr7 := by
  cases n <;> rfl

/-- The fields a write of a debug register leaves: all but the six registers. -/
theorem State.writeDr_eq (s : State) (n : DrNum) (v : BitVec 32) :
    s.writeDr n v = { s with dr := (s.writeDr n v).dr, dr6 := (s.writeDr n v).dr6, dr7 := (s.writeDr n v).dr7 } := by
  cases n <;> rfl

/-! ### The bits a store of a configuration register keeps -/

theorem and_right_zero_of_left {x r : BitVec 8} (h : x &&& r = 0#8) (y : BitVec 8) : (x &&& y) &&& r = 0#8 := by
  rw [BitVec.and_assoc, BitVec.and_comm y, ← BitVec.and_assoc, h, BitVec.zero_and]

/-- A store sets no reserved bit, where neither the old byte nor the byte written has one set (R12, R233). -/
theorem newConfigByte_reserved {cf : ConfigFile} {i v r : BitVec 8} (hold : configByte cf i &&& r = 0#8)
    (hv : v &&& r = 0#8) (smm : Bool) : newConfigByte cf smm i v &&& r = 0#8 := by
  have hor {x y : BitVec 8} (hx : x &&& r = 0#8) (hy : y &&& r = 0#8) : (x ||| y) &&& r = 0#8 := by
    rw [BitVec.and_comm, BitVec.and_or_distrib_left, BitVec.and_comm r, BitVec.and_comm r, hx, hy, BitVec.or_zero]
  have hnew (locked : BitVec 8) : ((configByte cf i &&& locked) ||| (v &&& ~~~locked)) &&& r = 0#8 :=
    hor (and_right_zero_of_left hold _) (and_right_zero_of_left hv _)
  unfold newConfigByte
  dsimp only
  split
  · exact hor (hnew _) (and_right_zero_of_left hold _)
  · exact hnew _

theorem configClean_store {cf : ConfigFile} {i v : BitVec 8} (h : configClean cf) (hv : v &&& reservedMask i = 0#8)
    (smm : Bool) : configClean (configStore cf i (newConfigByte cf smm i v)) := by
  intro j hj
  by_cases hji : j = i
  · subst hji
    obtain ⟨p, hp⟩ := Option.isSome_iff_exists.1 hj
    rw [configByte_configStore_same _ _ hp]
    exact newConfigByte_reserved (h j hj) hv smm
  · rw [configByte_configStore_other _ _ hji]
    exact h j hj

/-- Two bytes put together by a mask, bit by bit. -/
theorem getLsbD_blend (old v m : BitVec 8) {k : Nat} (hk : k < 8) :
    ((old &&& m) ||| (v &&& ~~~m)).getLsbD k = if m.getLsbD k = true then old.getLsbD k else v.getLsbD k := by
  simp only [BitVec.getLsbD_or, BitVec.getLsbD_and, BitVec.getLsbD_not, hk, decide_true, Bool.true_and]
  cases m.getLsbD k <;> simp

/-- The mask of a store: the bits SMI_LOCK covers, while it is set and outside an SMI service routine (R233). -/
theorem lockedMask_bit (lock smm : Bool) (i : BitVec 8) (k : Nat) :
    (if lock && !smm then lockMask i else 0#8).getLsbD k = true ↔
      lock = true ∧ smm = false ∧ (lockMask i).getLsbD k = true := by
  cases lock <;> cases smm <;> simp

/-- The byte a store leaves, bit by bit (R233, R236, R237). -/
theorem newConfigByte_bit (cf : ConfigFile) (smm : Bool) (i v : BitVec 8) {k : Nat} (hk : k < 8) :
    (newConfigByte cf smm i v).getLsbD k =
      if i = 0xC3#8 ∧ k = 0 then (configByte cf i).getLsbD 0 || v.getLsbD 0
      else if smiLock cf = true ∧ smm = false ∧ (lockMask i).getLsbD k = true then (configByte cf i).getLsbD k
      else v.getLsbD k := by
  by_cases hlockBit : i = 0xC3#8 ∧ k = 0
  · obtain ⟨rfl, rfl⟩ := hlockBit
    rw [if_pos ⟨rfl, rfl⟩, newConfigByte_ccr3_bit0]
  · rw [if_neg hlockBit]
    simp only [← lockedMask_bit, ← getLsbD_blend _ _ _ hk, newConfigByte]
    split
    next hi =>
      have hone : (1#8).getLsbD k = false := by
        rw [BitVec.getLsbD_one]
        exact Bool.and_eq_false_imp.2 fun _ => decide_eq_false fun e => hlockBit ⟨hi, e⟩
      rw [BitVec.getLsbD_or, BitVec.getLsbD_and, hone, Bool.and_false, Bool.or_false]
    next => rfl

/-- With SMI_LOCK = 1 and outside an SMI service routine a store keeps the bits SMI_LOCK covers (R235, R236). -/
theorem newConfigByte_locked {cf : ConfigFile} (hlock : smiLock cf = true) (i v : BitVec 8) :
    newConfigByte cf false i v &&& lockMask i = configByte cf i &&& lockMask i := by
  apply BitVec.eq_of_getLsbD_eq
  intro k hk
  rw [BitVec.getLsbD_and, BitVec.getLsbD_and, newConfigByte_bit _ _ _ _ hk]
  cases hbit : (lockMask i).getLsbD k with
  | false => simp
  | true =>
    have hfree : ¬ (i = 0xC3#8 ∧ k = 0) := by
      rintro ⟨rfl, rfl⟩
      rw [lockMask_ccr3] at hbit
      exact absurd hbit (by decide)
    rw [if_neg hfree, if_pos ⟨hlock, rfl, rfl⟩]

theorem configStore_locked {cf : ConfigFile} (hlock : smiLock cf = true) (i v j : BitVec 8) :
    configByte (configStore cf i (newConfigByte cf false i v)) j &&& lockMask j = configByte cf j &&& lockMask j := by
  by_cases hji : j = i
  · subst hji
    cases hp : configPlace j with
    | none => rw [configStore, hp]
    | some p => rw [configByte_configStore_same _ _ hp, newConfigByte_locked hlock]
  · rw [configByte_configStore_other _ _ hji]

/-! ### The invariant -/

theorem Inv.congr {s t : State} (h : Inv s) (hmem : t.mem = s.mem) (hsmm : t.smmMem = s.smmMem) (hdr6 : t.dr6 = s.dr6)
    (hdr7 : t.dr7 = s.dr7) (hcfg : t.cfg = s.cfg) : Inv t where
  memory := hmem ▸ h.memory
  systemMemory := hsmm ▸ h.systemMemory
  debugStatus := hdr6 ▸ h.debugStatus
  debugControl := hdr7 ▸ h.debugControl
  config := hcfg ▸ h.config

/-- The one register of reset that is not zero, CCR4 = 05h, has no reserved bit set (R11, R17). -/
theorem configClean_reset : configClean ConfigFile.reset := by
  intro i hi
  obtain ⟨p, hp⟩ := Option.isSome_iff_exists.1 hi
  rw [configByte_of_place _ hp, ConfigFile.reset_get]
  split
  next h =>
    obtain rfl : i = 0xE8#8 := configPlace_injective hp (h ▸ configPlace_ccr4)
    rfl
  next => exact BitVec.zero_and

theorem Inv.afterReset (s : State) : Inv s.afterReset where
  memory := rfl
  systemMemory := rfl
  debugStatus := BitVec.zero_and
  debugControl := BitVec.zero_and
  config := configClean_reset

/-! ### The statements on every instruction -/

/-- An instruction leaves the byte stores, the system registers and the inputs as they are. -/
theorem exec_frame {i : Instr} {s t : State} (h : exec i s = .next t) :
    t.mem = s.mem ∧ t.smmMem = s.smmMem ∧ sameSystem s t ∧ t.env = s.env := by
  by_cases hltr : ∃ r, i = .ltr r
  · obtain ⟨r, rfl⟩ := hltr
    obtain ⟨hmem, hsmm, hsystem, henv, -⟩ := exec_ltr_frame h
    exact ⟨hmem, hsmm, hsystem, henv⟩
  · by_cases hmov : ∃ n r, i = .movDrR32 n r
    · obtain ⟨n, r, rfl⟩ := hmov
      rw [exec_movDrR32_next h, State.writeDr_eq]
      simp [sameSystem]
    · have hframe := exec_systemFrame (fun r e => hltr ⟨r, e⟩) (fun n r e => hmov ⟨n, r, e⟩) h
      exact ⟨hframe.mem, hframe.smmMem, hframe.system, hframe.env⟩

/-- Only MOV DRn, r32 writes a debug register (R311). -/
theorem exec_debugRegisters {i : Instr} {s t : State} (hmov : ∀ n r, i ≠ .movDrR32 n r) (h : exec i s = .next t) :
    sameDebug s t := by
  by_cases hltr : ∃ r, i = .ltr r
  · obtain ⟨r, rfl⟩ := hltr
    obtain ⟨-, -, -, -, hdebug⟩ := exec_ltr_frame h
    exact hdebug
  · exact (exec_systemFrame (fun r e => hltr ⟨r, e⟩) hmov h).debug

/-- Settles O16: it is part of the frame of every instruction. -/
theorem instructionsLeaveMemoryAndSystemRegisters : Obligations.InstructionsLeaveMemoryAndSystemRegisters := by
  intro i s t h
  obtain ⟨hmem, hsmm, hsystem, -⟩ := exec_frame h
  exact ⟨fun a => by rw [hmem, hsmm]; exact ⟨rfl, rfl⟩, hsystem⟩

/-- Settles O15: MOV DRn, r32 leaves the Task Register, and every other instruction but LTR has it in its frame. -/
theorem onlyLtrChangesTheTaskRegister : Obligations.OnlyLtrChangesTheTaskRegister := by
  intro i s t hltr h
  by_cases hmov : ∃ n r, i = .movDrR32 n r
  · obtain ⟨n, r, rfl⟩ := hmov
    rw [exec_movDrR32_next h, State.writeDr_eq]
    simp [sameTaskRegister]
  · exact (exec_systemFrame hltr (fun n r e => hmov ⟨n, r, e⟩) h).taskRegister

/-- Settles O17: the debug registers are in the frame of the other instructions, and the MOV writes the one it names. -/
theorem onlyMovChangesTheDebugRegisters : Obligations.OnlyMovChangesTheDebugRegisters := by
  refine ⟨fun i s t hmov h => exec_debugRegisters hmov h, fun n r s t h => ?_⟩
  rw [exec_movDrR32_next h]
  refine ⟨fun hn => ?_, fun hn => ?_, fun i hi => ?_⟩
  · rw [State.advance_dr6, State.writeDr_dr6, if_neg hn]
  · rw [State.advance_dr7, State.writeDr_dr7, if_neg hn]
  · rw [State.advance_dr, State.writeDr_dr, if_neg hi]

/-- Settles O18: the one way an instruction reaches the file is a store at the selected index. -/
theorem onlyPort23WritesChangeTheConfiguration : Obligations.OnlyPort23WritesChangeTheConfiguration := by
  intro i s t h hne
  obtain hsame | ⟨hport, hstore⟩ := exec_cfg h
  · exact absurd hsame hne
  · refine ⟨hport, hstore.armed, fun j hj => ?_⟩
    rw [hstore.stored, configByte_configStore_other _ _ hj]

/-! ### The statements on every step -/

/-- Settles O14: no event but a change of the inputs and no instruction writes them. -/
theorem onlyThePlatformChangesTheMode : Obligations.OnlyThePlatformChangesTheMode := by
  intro s t hevent h
  obtain ⟨e, es, hs, -, h⟩ | ⟨-, -, h⟩ | ⟨-, -, rfl⟩ := step_next h
  · obtain ⟨-, rfl⟩ | ⟨-, -, rfl⟩ | ⟨-, -, rfl⟩ | ⟨-, rfl⟩ | ⟨env, rfl, -⟩ | ⟨-, rfl⟩ := takeEvent_next h
    · rfl
    · rfl
    · rfl
    · split <;> rfl
    · exact absurd (by rw [hs, List.head?_cons]) (hevent env)
    · rfl
  · obtain ⟨i, -, h, -⟩ := runInstruction_next h
    obtain ⟨-, -, -, henv⟩ := exec_frame h
    rw [henv, State.clearAccesses_env, State.passQuiet_env]
  · exact State.passQuiet_env s

/-- Settles O13: a step reaches the file by RESET alone or by a store, and a store keeps the bits SMI_LOCK covers. -/
theorem lockedBitsChangeOnlyInSmm : Obligations.LockedBitsChangeOnlyInSmm := by
  intro s t hlock hsmm hevent h
  have hkept (j : BitVec 8) : configByte t.cfg j &&& lockMask j = configByte s.cfg j &&& lockMask j := by
    obtain hsame | hstore | ⟨hreset, -⟩ := step_cfg h
    · rw [hsame]
    · rw [hstore.stored, hsmm, configStore_locked hlock]
    · exact absurd hreset hevent
  have hwhole (j : BitVec 8) (hmask : lockMask j = BitVec.allOnes 8) : configByte t.cfg j = configByte s.cfg j := by
    simpa only [hmask, BitVec.and_allOnes] using hkept j
  exact ⟨hkept 0xC1#8, hkept 0xC3#8, hwhole 0xCD#8 rfl, hwhole 0xCE#8 rfl, hwhole 0xCF#8 rfl⟩

/-- A MOV to DR6 or DR7 keeps their named bits alone (R312, D20). -/
theorem Inv.writeDr {s : State} (h : Inv s) (n : DrNum) (v : BitVec 32) : Inv (s.writeDr n v) := by
  have hmask (m : BitVec 32) : (v &&& m) &&& ~~~m = 0#32 := by
    rw [BitVec.and_assoc, BitVec.and_not_self]
    exact BitVec.and_zero
  rw [State.writeDr_eq]
  refine ⟨h.memory, h.systemMemory, ?_, ?_, h.config⟩
  · rw [State.writeDr_dr6]
    split
    · exact hmask _
    · exact h.debugStatus
  · rw [State.writeDr_dr7]
    split
    · exact hmask _
    · exact h.debugControl

/-- An instruction keeps the invariant: it writes the debug registers by a MOV, the configuration registers by a store. -/
theorem Inv.exec {i : Instr} {s t : State} (hinv : Inv s) (h : exec i s = .next t) : Inv t := by
  obtain ⟨hmem, hsmm, -, -⟩ := exec_frame h
  have hconfig : configClean t.cfg := by
    obtain hsame | ⟨-, hstore⟩ := exec_cfg h
    · exact hsame ▸ hinv.config
    · exact hstore.stored ▸ configClean_store hinv.config hstore.unreserved _
  by_cases hmov : ∃ n r, i = .movDrR32 n r
  · obtain ⟨n, r, rfl⟩ := hmov
    rw [exec_movDrR32_next h]
    exact (hinv.writeDr n _).congr (State.advance_mem _ _) (State.advance_smmMem _ _) (State.advance_dr6 _ _)
      (State.advance_dr7 _ _) (State.advance_cfg _ _)
  · obtain ⟨-, hdr6, hdr7⟩ := exec_debugRegisters (fun n r e => hmov ⟨n, r, e⟩) h
    exact ⟨hmem ▸ hinv.memory, hsmm ▸ hinv.systemMemory, hdr6 ▸ hinv.debugStatus, hdr7 ▸ hinv.debugControl, hconfig⟩

/-- An event that goes on keeps the invariant: RESET establishes it, the others write nothing it speaks of. -/
theorem Inv.takeEvent {e : Event} {s t : State} (hinv : Inv s) (h : takeEvent e s = .next t) : Inv t := by
  obtain ⟨-, rfl⟩ | ⟨-, -, rfl⟩ | ⟨-, -, rfl⟩ | ⟨-, rfl⟩ | ⟨env, -, rfl⟩ | ⟨-, rfl⟩ := takeEvent_next h
  · exact Inv.afterReset s
  · exact hinv
  · exact hinv.congr rfl rfl rfl rfl rfl
  · split
    · exact hinv.congr rfl rfl rfl rfl rfl
    · exact hinv
  · exact hinv.congr rfl rfl rfl rfl rfl
  · exact hinv

/-- Settles O11: an event or an instruction, in a state that differs from `s` in fields the invariant does not name. -/
theorem stepKeepsTheInvariant : Obligations.StepKeepsTheInvariant := by
  intro s t hinv h
  have hquiet : Inv s.passQuiet := hinv.congr (by simp) (by simp) (by simp) (by simp) (by simp)
  obtain ⟨e, es, -, -, h⟩ | ⟨-, -, h⟩ | ⟨-, -, rfl⟩ := step_next h
  · have hstart : Inv (s.setEvents es) := hinv.congr rfl rfl rfl rfl rfl
    exact hstart.takeEvent h
  · obtain ⟨i, -, h, -⟩ := runInstruction_next h
    have hstart : Inv s.passQuiet.clearAccesses := hquiet.congr rfl rfl rfl rfl rfl
    exact hstart.exec h
  · exact hquiet

/-- Settles O10: RESET clears the stores, the debug registers and every reserved bit, and so begins `State.reset`. -/
theorem resetMeetsTheInvariant : Obligations.ResetMeetsTheInvariant := Inv.afterReset State.reset

end Sys2Proof.Machine
end

section
/-! Breakpoints: the procedure of R332 in the words of its rules, that is which breakpoints are enabled, usable and met, which
bits of DR6 a debug exception sets, and what the checks before and after an instruction answer. From these the statements on
the causes of a debug exception, on execution and data breakpoints and on the breakpoints that are refused. -/

namespace Sys2Proof.Machine

/-! ### The bits of DR6 a debug exception sets -/

/-- BS is bit 14 of DR6 (R36). -/
theorem bsMask_getLsbD (k : Nat) : bsMask.getLsbD k = decide (k = 14) := by
  simp [show bsMask = BitVec.twoPow 32 14 from rfl, BitVec.getLsbD_twoPow, eq_comm]

/-- BT is bit 15 of DR6 (R36). -/
theorem btMask_getLsbD (k : Nat) : btMask.getLsbD k = decide (k = 15) := by
  simp [show btMask = BitVec.twoPow 32 15 from rfl, BitVec.getLsbD_twoPow, eq_comm]

theorem hitBits_getLsbD (hits : List (Fin 4)) (k : Nat) :
    (hitBits hits).getLsbD k = true ↔ ∃ i ∈ hits, i.val = k := by
  induction hits with
  | nil => simp [hitBits]
  | cons i hits ih =>
    have hbit : ((1#32 <<< i.val).getLsbD k = true) ↔ i.val = k := by
      rw [← BitVec.twoPow_eq, BitVec.getLsbD_twoPow]
      simpa using fun _ => by omega
    change ((1#32 <<< i.val) ||| hitBits hits).getLsbD k = true ↔ _
    rw [BitVec.getLsbD_or, Bool.or_eq_true, hbit, ih, List.exists_mem_cons_iff]

/-- The causes of a debug exception show in DR6, and no bit that was set is cleared (R322 to R325). -/
theorem State.recordDebug_dr6_bit (s : State) (hits : List (Fin 4)) (bs bt : Bool) (k : Nat) :
    (s.recordDebug hits bs bt).dr6.getLsbD k = true ↔
      s.dr6.getLsbD k = true ∨ (∃ i ∈ hits, i.val = k) ∨ (bs = true ∧ k = 14) ∨ (bt = true ∧ k = 15) := by
  have hmask (b : Bool) (m : BitVec 32) : (if b then m else 0#32).getLsbD k = (b && m.getLsbD k) := by
    cases b <;> simp
  simp only [State.recordDebug, State.setDr7_dr6, State.setDr6_dr6, BitVec.getLsbD_or, hmask, bsMask_getLsbD,
    btMask_getLsbD, Bool.or_eq_true, Bool.and_eq_true, decide_eq_true_eq, hitBits_getLsbD, or_assoc]

/-- Of the breakpoint bits of DR6 a debug exception sets those of the breakpoints hit (R322). -/
theorem State.recordDebug_hit (s : State) (hits : List (Fin 4)) (bs bt : Bool) (i : Fin 4) :
    (s.recordDebug hits bs bt).dr6.getLsbD i.val = true ↔ s.dr6.getLsbD i.val = true ∨ i ∈ hits := by
  have hbs : i.val ≠ 14 := by omega
  have hbt : i.val ≠ 15 := by omega
  simp [State.recordDebug_dr6_bit, hbs, hbt, ← Fin.ext_iff]

/-- A bit of DR6 that stands for no cause of a debug exception is left alone. -/
theorem State.recordDebug_dr6_other (s : State) (hits : List (Fin 4)) {bs bt : Bool} {k : Nat} (hk : 4 ≤ k)
    (hbs : bs = true → k ≠ 14) (hbt : bt = true → k ≠ 15) :
    (s.recordDebug hits bs bt).dr6.getLsbD k = s.dr6.getLsbD k := by
  have hno : ¬ ∃ i ∈ hits, i.val = k := by
    rintro ⟨i, -, hi⟩
    omega
  have hnobs : ¬ (bs = true ∧ k = 14) := not_and.2 hbs
  have hnobt : ¬ (bt = true ∧ k = 15) := not_and.2 hbt
  rw [Bool.eq_iff_iff, State.recordDebug_dr6_bit]
  simp only [hno, hnobs, hnobt, or_false]

/-- Settles O28: DR6 and DR7 as `State.recordDebug` writes them, bit by bit. -/
theorem debugExceptionSetsItsCauses : Obligations.DebugExceptionSetsItsCauses := by
  intro s hits bs bt pc
  refine ⟨s.recordDebug hits bs bt, rfl, rfl, State.recordDebug_dr7 .., fun i => ?hit, ?step, ?task,
    fun k hk hbs hbt => State.recordDebug_dr6_other s hits hk (fun _ => hbs) (fun _ => hbt)⟩
  case hit => rw [Bool.eq_iff_iff, State.recordDebug_hit, Bool.or_eq_true, decide_eq_true_eq]
  case step =>
    have hno : ¬ ∃ i ∈ hits, i.val = 14 := fun ⟨i, _, hi⟩ => by omega
    rw [Bool.eq_iff_iff, State.recordDebug_dr6_bit]
    simp [hno]
  case task =>
    have hno : ¬ ∃ i ∈ hits, i.val = 15 := fun ⟨i, _, hi⟩ => by omega
    rw [Bool.eq_iff_iff, State.recordDebug_dr6_bit]
    simp [hno]

/-! ### Breakpoints that are enabled, usable and met -/

theorem bpEnabled_iff (d7 : BitVec 32) (i : Fin 4) : bpEnabled d7 i = true ↔ breakpointOn d7 i := by
  rw [bpEnabled, Bool.or_eq_true]
  rfl

/-- A breakpoint is legal exactly when it can be used (R316, R317, R318). -/
theorem bpLegal_iff (d7 : BitVec 32) (i : Fin 4) : bpLegal d7 i = true ↔ ¬ breakpointUnusable d7 i := by
  simp only [bpLegal, bpType, bpLen, breakpointUnusable, Bool.and_eq_true, Bool.or_eq_true, bne_iff_ne, beq_iff_eq]
  tauto

/-- An enabled breakpoint has a problem exactly when it cannot be used, and then the refusal names it. -/
theorem bpProblem_eq_some {d7 : BitVec 32} {i : Fin 4} {r : Refusal} (h : bpProblem d7 i = some r) :
    breakpointOn d7 i ∧ breakpointUnusable d7 i ∧
      r ∈ [.breakpointTypeNotUsed i, .breakpointLengthNotUsed i, .executionBreakpointLength i] := by
  unfold bpProblem at h
  split at h
  · cases h
  next hon =>
    refine ⟨(bpEnabled_iff d7 i).1 (by simpa using hon), ?_⟩
    split at h
    next htype =>
      cases h
      exact ⟨.inl htype, by simp⟩
    next =>
      split at h
      next hlen =>
        cases h
        exact ⟨.inr (.inl hlen), by simp⟩
      next =>
        split at h
        next hexec =>
          cases h
          exact ⟨.inr (.inr hexec), by simp⟩
        next => cases h

theorem bpProblem_eq_none {d7 : BitVec 32} {i : Fin 4} (h : bpProblem d7 i = none) (hon : breakpointOn d7 i) :
    ¬ breakpointUnusable d7 i := by
  have hon : bpEnabled d7 i = true := (bpEnabled_iff d7 i).2 hon
  simp only [bpProblem, hon, Bool.not_true, Bool.false_eq_true, if_false] at h
  split at h
  · cases h
  next htype =>
    split at h
    · cases h
    next hlen =>
      split at h
      · cases h
      next hexec => exact not_or.2 ⟨htype, not_or.2 ⟨hlen, hexec⟩⟩

/-- The match of an execution breakpoint is R316's. -/
theorem bpMatchesInstr_iff (s : State) (i : Fin 4) : bpMatchesInstr s i = true ↔ instrMeetsBreakpoint s i := by
  simp only [bpMatchesInstr, Bool.and_eq_true, beq_iff_eq, bpLegal_iff, instrMeetsBreakpoint, bpType,
    State.instrAddress]
  constructor
  · rintro ⟨⟨husable, htype⟩, haddr⟩
    exact ⟨htype, not_not.1 fun hlen => husable (.inr (.inr ⟨htype, hlen⟩)), haddr⟩
  · rintro ⟨htype, hlen, haddr⟩
    exact ⟨⟨by simp [breakpointUnusable, htype, hlen], htype⟩, haddr⟩

theorem kindFits_iff (type : BitVec 2) (k : AccessKind) :
    kindFits type k = true ↔ type = 3#2 ∨ (type = 1#2 ∧ k = .write) := by
  simp [kindFits]

/-- The lengths of R38: one, two or four bytes, and none for 10b. -/
theorem lenBytes_iff (l : BitVec 2) (n : Nat) :
    (l, n) ∈ [(0#2, 1), (1#2, 2), (3#2, 4)] ↔ l ≠ 2#2 ∧ n = lenBytes l := by
  have hall : l = 0#2 ∨ l = 1#2 ∨ l = 2#2 ∨ l = 3#2 := by revert l; decide
  obtain rfl | rfl | rfl | rfl := hall <;> simp [lenBytes]

/-- The match of a data breakpoint is R316's. -/
theorem bpMatchesAccess_iff (t : State) (i : Fin 4) (a : Access) :
    bpMatchesAccess t i a = true ↔ accessMeetsBreakpoint t i a := by
  have hlegal (hkind : bpType t.dr7 i = 3#2 ∨ (bpType t.dr7 i = 1#2 ∧ a.kind = .write)) :
      bpLegal t.dr7 i = true ↔ bpLen t.dr7 i ≠ 2#2 := by
    obtain htype | ⟨htype, -⟩ := hkind <;> simp [bpLegal, htype]
  simp only [bpMatchesAccess, Bool.and_eq_true, kindFits_iff, rangesMeet, decide_eq_true_eq, bpBase,
    ← Nat.div_mul_self_eq_mod_sub_self]
  constructor
  · rintro ⟨⟨hleg, hkind⟩, hmeet⟩
    exact ⟨hkind, _, (lenBytes_iff _ _).2 ⟨(hlegal hkind).1 hleg, rfl⟩, hmeet⟩
  · rintro ⟨hkind, n, hlen, hmeet⟩
    obtain ⟨hne, rfl⟩ := (lenBytes_iff _ _).1 hlen
    exact ⟨⟨(hlegal hkind).2 hne, hkind⟩, hmeet⟩

theorem mem_breakpointNumbers (i : Fin 4) : i ∈ breakpointNumbers := by revert i; decide

theorem mem_executionHits (s : State) (i : Fin 4) : i ∈ executionHits s ↔ instrMeetsBreakpoint s i := by
  simp [executionHits, mem_breakpointNumbers, bpMatchesInstr_iff]

theorem mem_dataHits (t : State) (i : Fin 4) :
    i ∈ dataHits t ↔ ∃ a, a ∈ t.accesses ∧ accessMeetsBreakpoint t i a := by
  simp [dataHits, mem_breakpointNumbers, bpMatchesAccess_iff]

/-! ### The check before an instruction -/

/-- A refusal before an instruction names an enabled breakpoint that cannot be used. -/
theorem beforeInstruction_refused {s : State} {r : Refusal} (h : s.beforeInstruction = .refused r) :
    ∃ j, bpProblem s.dr7 j = some r := by
  unfold State.beforeInstruction at h
  split at h
  next r' hfind =>
    cases h
    obtain ⟨j, -, hj⟩ := List.exists_of_findSome?_eq_some hfind
    exact ⟨j, hj⟩
  next => split at h <;> cases h

theorem beforeInstruction_of_unusable {s : State} {i : Fin 4} (hon : breakpointOn s.dr7 i)
    (hunusable : breakpointUnusable s.dr7 i) : ∃ r, s.beforeInstruction = .refused r := by
  unfold State.beforeInstruction
  split
  next r _ => exact ⟨r, rfl⟩
  next hfind =>
    have hnone := List.findSome?_eq_none_iff.1 hfind i (mem_breakpointNumbers i)
    exact absurd hunusable (bpProblem_eq_none hnone hon)

/-- Where every enabled breakpoint can be used, an enabled one that is met decides the check. -/
theorem beforeInstruction_of_usable {s : State}
    (h : ∀ j : Fin 4, breakpointOn s.dr7 j → ¬ breakpointUnusable s.dr7 j) :
    s.beforeInstruction = if (executionHits s).any (bpEnabled s.dr7) then
      debugException s (executionHits s) false false s.pc else .next s.clearAccesses := by
  have hnone : breakpointNumbers.findSome? (bpProblem s.dr7) = none := by
    refine List.findSome?_eq_none_iff.2 fun j _ => ?_
    cases hj : bpProblem s.dr7 j with
    | none => rfl
    | some r =>
      obtain ⟨hon, hunusable, -⟩ := bpProblem_eq_some hj
      exact absurd hunusable (h j hon)
  rw [State.beforeInstruction, hnone]

/-- With no enabled breakpoint that cannot be used or is met, the instruction is reached. -/
theorem beforeInstruction_reached {s : State}
    (h : ∀ i : Fin 4, breakpointOn s.dr7 i → ¬ breakpointUnusable s.dr7 i ∧ ¬ instrMeetsBreakpoint s i) :
    s.beforeInstruction = .next s.clearAccesses := by
  rw [beforeInstruction_of_usable fun i hon => (h i hon).1, if_neg]
  rintro hany
  obtain ⟨i, hi, hon⟩ := List.any_eq_true.1 hany
  exact (h i ((bpEnabled_iff _ _).1 hon)).2 ((mem_executionHits s i).1 hi)

/-- An enabled execution breakpoint that is met is taken before the instruction (R328). -/
theorem beforeInstruction_of_met {s : State} {i : Fin 4}
    (h : ∀ j : Fin 4, breakpointOn s.dr7 j → ¬ breakpointUnusable s.dr7 j) (hon : breakpointOn s.dr7 i)
    (hmet : instrMeetsBreakpoint s i) :
    s.beforeInstruction = .fault (.exception .debug none s.pc (s.recordDebug (executionHits s) false false)) := by
  rw [beforeInstruction_of_usable h,
    if_pos (List.any_eq_true.2 ⟨i, (mem_executionHits s i).2 hmet, (bpEnabled_iff _ _).2 hon⟩)]
  rfl

theorem instrMeetsBreakpoint_passQuiet (s : State) (i : Fin 4) :
    instrMeetsBreakpoint s.passQuiet i ↔ instrMeetsBreakpoint s i := by
  simp [instrMeetsBreakpoint]

/-- Settles O29: the check before the instruction ends the step, and what it records are the breakpoints met. -/
theorem executionBreakpointComesFirst : Obligations.ExecutionBreakpointComesFirst := by
  refine ⟨bpMatchesInstr_iff, fun s i hready husable hon hmet => ?_⟩
  have hbefore := beforeInstruction_of_met (s := s.passQuiet) (by simpa using husable) (by simpa using hon)
    ((instrMeetsBreakpoint_passQuiet s i).2 hmet)
  have hstep : step s = .fault (.exception .debug none s.pc
      (s.passQuiet.recordDebug (executionHits s.passQuiet) false false)) := by
    rw [step_readyToRun hready, runInstruction, hbefore, andThen_of_fault, State.passQuiet_pc]
  have hbit (j : Fin 4) : (s.passQuiet.recordDebug (executionHits s.passQuiet) false false).dr6.getLsbD j.val = true ↔
      s.dr6.getLsbD j.val = true ∨ instrMeetsBreakpoint s j := by
    rw [State.recordDebug_hit, mem_executionHits, instrMeetsBreakpoint_passQuiet, State.passQuiet_dr6]
  refine ⟨_, hstep, rfl, (hbit i).2 (.inr hmet), hbit, fun k hk => ?_, ?_⟩
  · rw [State.recordDebug_dr6_other _ _ hk (by simp) (by simp), State.passQuiet_dr6]
  · rw [State.recordDebug_dr7, State.passQuiet_dr7]

/-- Settles O32: a problem is an enabled breakpoint that cannot be used, the check before the instruction looks for one
first, and a breakpoint that cannot be used is not legal and matches nothing. -/
theorem unusableBreakpointsAreRefused : Obligations.UnusableBreakpointsAreRefused := by
  refine ⟨fun s i hready hon hunusable => ?refused, fun s r h => ?named, fun s i hunusable => ?inert,
    fun s h => beforeInstruction_reached h⟩
  case refused =>
    obtain ⟨r, hr⟩ := beforeInstruction_of_unusable (s := s.passQuiet) (i := i) (by simpa using hon)
      (by simpa using hunusable)
    exact ⟨r, hr, by rw [step_readyToRun hready, runInstruction, hr, andThen_of_refused]⟩
  case named =>
    obtain ⟨j, hj⟩ := beforeInstruction_refused h
    obtain ⟨hon, hunusable, hr⟩ := bpProblem_eq_some hj
    exact ⟨j, hon, hunusable, hj, hr⟩
  case inert =>
    have hillegal : bpLegal s.dr7 i = false :=
      Bool.eq_false_iff.2 fun hlegal => (bpLegal_iff _ _).1 hlegal hunusable
    simp [bpMatchesInstr, bpMatchesAccess, hillegal]

/-! ### The check after an instruction -/

/-- With TF = 0 the check after an instruction passes where no access meets an enabled breakpoint (R331). -/
theorem afterInstruction_passes {t : State}
    (h : ∀ (i : Fin 4) (a : Access), a ∈ t.accesses → breakpointOn t.dr7 i → ¬ accessMeetsBreakpoint t i a) :
    t.afterInstruction false = .next t := by
  rw [State.afterInstruction, Bool.false_or, if_neg]
  intro hany
  obtain ⟨i, hi, hon⟩ := List.any_eq_true.1 hany
  obtain ⟨a, ha, hmeets⟩ := (mem_dataHits t i).1 hi
  exact h i a ha ((bpEnabled_iff _ _).1 hon) hmeets

/-- An enabled data breakpoint that an access meets is taken after the instruction (R331). -/
theorem afterInstruction_of_met {t : State} {i : Fin 4} {a : Access} (ha : a ∈ t.accesses)
    (hon : breakpointOn t.dr7 i) (hmeets : accessMeetsBreakpoint t i a) :
    t.afterInstruction false = .fault (.exception .debug none t.nextPc (t.recordDebug (dataHits t) false false)) := by
  rw [State.afterInstruction, Bool.false_or,
    if_pos (List.any_eq_true.2 ⟨i, (mem_dataHits t i).2 ⟨a, ha, hmeets⟩, (bpEnabled_iff _ _).2 hon⟩)]
  rfl

/-- Settles O31: the check after the instruction records the data breakpoints met, or passes. -/
theorem dataBreakpointsAreTakenAfter : Obligations.DataBreakpointsAreTakenAfter := by
  refine ⟨fun t i a ha hon hmeets => ?_, fun t h => afterInstruction_passes h, bpMatchesAccess_iff⟩
  have hbit (j : Fin 4) : (t.recordDebug (dataHits t) false false).dr6.getLsbD j.val = true ↔
      t.dr6.getLsbD j.val = true ∨ ∃ b, b ∈ t.accesses ∧ accessMeetsBreakpoint t j b := by
    rw [State.recordDebug_hit, mem_dataHits]
  exact ⟨_, _, afterInstruction_of_met ha hon hmeets, State.nextPc_running, rfl, (hbit i).2 (.inr ⟨a, ha, hmeets⟩), hbit,
    fun k hk => State.recordDebug_dr6_other _ _ hk (by simp) (by simp), State.recordDebug_dr7 ..⟩

end Sys2Proof.Machine
end

section
/-! Steps: the step around an instruction where the debug procedure has nothing to do, the step at bytes that are no
instruction, and what each event of the platform answers. From these the statements on steps and events, and beside them the
two gated writes. -/

namespace Sys2Proof.Machine

/-! ### The step around an instruction -/

/-- Settles O5: the check before the instruction passes, and the fetch is the decoding of the bytes at `pc`. -/
theorem stepRunsTheDecodedInstruction : Obligations.StepRunsTheDecodedInstruction := by
  rintro s v i rest hready rfl hbefore haligned hdecode
  exact step_of_decode hready hbefore haligned hdecode

/-- A fetch of bytes that are no instruction is refused by the reason, where the bytes do not merely end (R141). -/
theorem fetch_of_decode_error {s : State} {e : DecodeError} (haligned : regionsAligned s.cfg)
    (hdecode : decode s.fetchBytes.1 = .error e) (he : e ≠ .truncated) : s.fetch = .refused (.encoding e) := by
  rw [State.fetch, State.fetchAttributes, attributesAt_aligned haligned]
  cases e with
  | truncated => exact absurd rfl he
  | outsideSpec | prefixByte | modNotRegister | widePortAccess | testRegister => simp [hdecode]

/-- Settles O7: the step goes as far as the fetch, and ends there. -/
theorem stepRefusesOtherBytes : Obligations.StepRefusesOtherBytes := by
  rintro s v e hready rfl hbefore haligned hdecode he
  have hfetch : s.passQuiet.clearAccesses.fetch = .refused (.encoding e) :=
    fetch_of_decode_error (by simpa using haligned) (by simpa using hdecode) he
  rw [step_readyToRun hready, runInstruction, hbefore, andThen_of_next, hfetch, andThen_of_refused]

/-- With the low byte of DR7 zero no breakpoint is enabled (R37, R319). -/
theorem not_breakpointOn {d7 : BitVec 32} (h : d7 &&& 0x000000FF#32 = 0#32) (i : Fin 4) : ¬ breakpointOn d7 i := by
  have hlow (k : Fin 8) : d7.getLsbD k.val = false := by
    have hmask : (0x000000FF#32).getLsbD k.val = true := by revert k; decide
    have hbit : (d7 &&& 0x000000FF#32).getLsbD k.val = false := by rw [h, BitVec.getLsbD_zero]
    rwa [BitVec.getLsbD_and, hmask, Bool.and_true] at hbit
  have hL : d7.getLsbD (2 * i.val) = false := hlow ⟨2 * i.val, by omega⟩
  have hG : d7.getLsbD (2 * i.val + 1) = false := hlow ⟨2 * i.val + 1, by omega⟩
  simp [breakpointOn, hL, hG]

/-- Only LTR makes a data access. -/
theorem exec_noAccess {i : Instr} {s t : State} (hltr : ∀ r, i ≠ .ltr r) (h : exec i s = .next t) : noAccess s t := by
  by_cases hmov : ∃ n r, i = .movDrR32 n r
  · obtain ⟨n, r, rfl⟩ := hmov
    rw [exec_movDrR32_next h, State.writeDr_eq]
    exact State.advance_accesses _ _
  · exact (exec_systemFrame hltr (fun n r e => hmov ⟨n, r, e⟩) h).access

/-- With no breakpoint enabled and no access made before it, an instruction leaves nothing for the check after it: LTR
enables no breakpoint, and no other instruction makes an access. -/
theorem afterInstruction_of_exec {i : Instr} {s t : State} (hoff : ∀ j, ¬ breakpointOn s.dr7 j)
    (hnone : s.accesses = []) (h : exec i s = .next t) : t.afterInstruction false = .next t := by
  refine afterInstruction_passes fun j a ha hon => ?_
  by_cases hltr : ∃ r, i = .ltr r
  · obtain ⟨r, rfl⟩ := hltr
    obtain ⟨-, -, -, -, -, -, hdr7⟩ := exec_ltr_frame h
    exact absurd (hdr7 ▸ hon) (hoff j)
  · have haccess : t.accesses = s.accesses := exec_noAccess (fun r e => hltr ⟨r, e⟩) h
    rw [haccess, hnone] at ha
    cases ha

/-- Settles O6: both checks pass, whatever the instruction answers. -/
theorem stepWithoutBreakpointsIsExec : Obligations.StepWithoutBreakpointsIsExec := by
  rintro s v i rest hready rfl htf hdr7 haligned hdecode
  have hoff := not_breakpointOn hdr7
  have hbefore : s.passQuiet.beforeInstruction = .next s.passQuiet.clearAccesses :=
    beforeInstruction_reached fun j hon => absurd (by simpa using hon) (hoff j)
  rw [step_of_decode hready hbefore haligned hdecode, htf]
  cases hexec : exec i s.passQuiet.clearAccesses with
  | next t => exact afterInstruction_of_exec (by simpa using hoff) rfl hexec
  | fault r => rfl
  | refused r => rfl

/-! ### Events -/

/-- Settles O9: RESET clears the selection and keeps the inputs and the events to come. -/
theorem resetPinLeavesNoSelection : Obligations.ResetPinLeavesNoSelection :=
  fun _ _ hu => ⟨_, step_of_reset_event hu, rfl, rfl, rfl⟩

/-- An event that is not the quiet mark is taken, in the state without it. -/
theorem step_of_event {s : State} {e : Event} {es : List Event} (h : s.events = e :: es) (he : e ≠ .quiet) :
    step s = takeEvent e (s.setEvents es) := by
  unfold step
  split
  next hnil => simp [hnil] at h
  next hquiet => simp_all
  next e' es' _ hcons =>
    rw [h] at hcons
    cases hcons
    rfl

/-- At a quiet boundary the run goes on, and a stopped CPU stays as it is. -/
theorem step_of_quiet {s : State} {es : List Event} (h : s.events = .quiet :: es) :
    step s = runOn (s.setEvents es) (.next (s.setEvents es)) := by
  simp [step, h]

theorem nmiRecognized_iff (s : State) : s.nmiRecognized = true ↔ s.env.smm = false ∨ nmiEn s.cfg = true := by
  simp [State.nmiRecognized]

/-- An SMI is honoured with USE_SMI = 1 and SMAC = 0 (R251, R252). -/
theorem takeEvent_smi (s : State) : takeEvent .smi s = if useSmi s.cfg = true ∧ smac s.cfg = false then
    (if sm3 s.cfg then .fault (.smi s) else .refused .useSmiWithoutSm3) else .next s := by
  cases hu : useSmi s.cfg <;> cases hs : smac s.cfg <;> simp [takeEvent, State.smiHonoured, hu, hs]

/-- Settles O60: each event is taken in the state without it, where the bit that gates it decides. -/
theorem eventsAreGated : Obligations.EventsAreGated := by
  intro s es
  refine ⟨fun h => ?smi, fun h => ?nmi, fun h => ?suspend, fun h => ?interrupt, fun h => ?quiet, fun h => ?task,
    fun h => ?gate⟩
  case smi =>
    rw [step_of_event h (by simp), takeEvent_smi]
    refine ⟨fun hoff => if_neg ?_, fun huse hsmac hsm3 => ?_, fun huse hsmac hsm3 => ?_⟩
    · rintro ⟨huse, hsmac⟩
      simp_all
    · rw [if_pos ⟨huse, hsmac⟩]
      exact if_pos hsm3
    · rw [if_pos ⟨huse, hsmac⟩]
      exact if_neg (Bool.eq_false_iff.1 hsm3)
  case nmi =>
    rw [step_of_event h (by simp)]
    refine ⟨fun hrec => if_pos ((nmiRecognized_iff _).2 hrec), fun hsmm hen => ⟨_, if_neg ?_, rfl⟩⟩
    rw [nmiRecognized_iff, State.setEvents_env, State.setEvents_cfg]
    simp [hsmm, hen]
  case suspend =>
    rw [step_of_event h (by simp)]
    exact ⟨fun hoff => if_neg (Bool.eq_false_iff.1 hoff), fun hon => if_pos hon⟩
  case interrupt => exact step_of_event h (by simp)
  case quiet =>
    rw [step_of_quiet h]
    refine ⟨fun hpending hrec => if_pos ?_,
      fun hpending hstopped => runOn_of_stopped (s := s.setEvents es) hpending hstopped _⟩
    exact Bool.and_eq_true_iff.2 ⟨hpending, (nmiRecognized_iff _).2 hrec⟩
  case task => exact step_of_event h (by simp)
  case gate => exact step_of_event h (by simp)

/-! ### The gated writes -/

theorem idMask_getLsbD (k : Nat) : idMask.getLsbD k = decide (k = 21) := by
  simp [show idMask = BitVec.twoPow 32 21 from rfl, BitVec.getLsbD_twoPow, eq_comm]

theorem nwMask_getLsbD (k : Nat) : nwMask.getLsbD k = decide (k = 29) := by
  simp [show nwMask = BitVec.twoPow 32 29 from rfl, BitVec.getLsbD_twoPow, eq_comm]

/-- A write of EFLAGS, bit by bit: with CCR4.CPUID = 0 the ID bit stays as it was (R265). -/
theorem State.writeEflags_bit (s : State) (v : BitVec 32) (k : Nat) : (s.writeEflags v).eflags.getLsbD k =
    if cpuidEnabled s.cfg = false ∧ k = 21 then s.eflags.getLsbD k else v.getLsbD k := by
  unfold State.writeEflags
  cases hen : cpuidEnabled s.cfg with
  | true => simp
  | false =>
    simp only [Bool.false_eq_true, if_false, true_and, BitVec.getLsbD_or, BitVec.getLsbD_and (y := idMask),
      getLsbD_clearMask, idMask_getLsbD]
    split <;> simp [*]

/-- A write of CR0, bit by bit: with CCR2.LOCK_NW = 1 the NW bit stays as it was (R256). -/
theorem State.writeCr0_bit (s : State) (v : BitVec 32) (k : Nat) : (s.writeCr0 v).cr0.getLsbD k =
    if lockNw s.cfg = true ∧ k = 29 then s.cr0.getLsbD k else v.getLsbD k := by
  unfold State.writeCr0
  cases hlock : lockNw s.cfg with
  | false => simp
  | true =>
    simp only [if_true, true_and, BitVec.getLsbD_or, BitVec.getLsbD_and (y := nwMask), getLsbD_clearMask,
      nwMask_getLsbD]
    split <;> simp [*]

/-- Settles O59: each write bit by bit, and either way it writes its one register. -/
theorem gatedControlBits : Obligations.GatedControlBits := by
  refine fun s v k => ⟨State.writeEflags_bit s v k, State.writeCr0_bit s v k, ?_, ?_⟩
  · unfold State.writeEflags
    split <;> rfl
  · unfold State.writeCr0
    split <;> rfl

end Sys2Proof.Machine
end

section
/-! LTR and STR, the MOVs with a debug register, and LOOP: a read of memory that goes on, the outcome of each instruction on
either side of its conditions, and what it leaves as it is. From these the statements on the three. -/

namespace Sys2Proof.Machine

/-! ### Frames of instructions that work on registers -/

/-- The fields outside the frame of an instruction that works on registers. -/
theorem RegisterFrame.of_update (s : State) (gpr : Vector (BitVec 32) 8) (pc : BitVec 32) (draws : Nat) :
    RegisterFrame s { s with gpr := gpr, pc := pc, draws := draws } where
  memory _ := ⟨rfl, rfl⟩
  system := ⟨rfl, rfl, rfl, rfl⟩
  taskRegister := ⟨rfl, rfl, rfl⟩
  debug := ⟨rfl, rfl, rfl⟩
  platform := ⟨rfl, rfl, rfl, rfl⟩
  access := rfl
  config := rfl
  selection := ⟨rfl, rfl⟩
  io := rfl

theorem otherRegisters_setReg32 (s : State) (r : GReg) (v : BitVec 32) : otherRegisters r s (s.setReg32 r v) :=
  fun _ hq => State.reg32_setReg32_other s v hq

theorem otherRegisters_setReg16 (s : State) (r : GReg) (v : BitVec 16) : otherRegisters r s (s.setReg16 r v) :=
  otherRegisters_setReg32 s r _

theorem otherRegisters.advance {r : GReg} {s t : State} (h : otherRegisters r s t) (n : Nat) :
    otherRegisters r s (t.advance n) :=
  fun q hq => (State.reg32_advance t n q).trans (h q hq)

theorem highHalf_setReg16 (s : State) (r : GReg) (v : BitVec 16) :
    ((s.setReg16 r v).reg32 r).extractLsb' 16 16 = (s.reg32 r).extractLsb' 16 16 := by
  rw [State.reg32_setReg16, if_pos rfl, extractHigh_append]

/-! ### Memory reads that go on -/

@[simp] theorem State.loadByte_record (s : State) (x : Access) (a : Nat) : (s.record x).loadByte a = s.loadByte a := rfl

@[simp] theorem State.loadBytes_record (s : State) (x : Access) (a n : Nat) :
    (s.record x).loadBytes a n = s.loadBytes a n := by
  induction n generalizing a with
  | zero => rfl
  | succ n ih => simp only [State.loadBytes, State.loadByte_record, ih]

/-- An aligned read of bytes that memory holds gives their value and records the access, while no active region is
misaligned. -/
theorem memRead_of_loadBytes {s : State} {a : BitVec 32} {w : Width} {bs : List Byte} (ha : a.toNat % w.bytes = 0)
    (hregions : regionsAligned s.cfg) (hbs : s.loadBytes a.toNat w.bytes = .ok bs) :
    ∃ t, s.memRead a w = .next (leValue bs, s.record ⟨a, w, .read, s.reachesSmm a.toNat, t⟩) := by
  have hcheck := checkAccess_aligned (s := s) ha
  rw [State.attributes, attributesAt_aligned hregions] at hcheck
  exact ⟨_, by rw [State.memRead, hcheck, andThen_of_next, hbs]⟩

/-- A row read inside memory, likewise. -/
theorem readRow_of_loadBytes {s : State} {base : BitVec 32} {offset : Nat} {w : Width} {bs : List Byte}
    (hend : base.toNat + offset + w.bytes ≤ 2 ^ 32) (ha : (base.toNat + offset) % w.bytes = 0)
    (hregions : regionsAligned s.cfg) (hbs : s.loadBytes (base.toNat + offset) w.bytes = .ok bs) :
    ∃ x : Access, s.readRow base offset w = .next (leValue bs, s.record x) ∧
      x.address = base + BitVec.ofNat 32 offset ∧ x.width = w ∧ x.kind = .read := by
  have hpos : 0 < w.bytes := by cases w <;> decide
  have haddr : (base + BitVec.ofNat 32 offset).toNat = base.toNat + offset := by
    rw [BitVec.toNat_add, BitVec.toNat_ofNat]
    omega
  rw [← haddr] at ha hbs
  obtain ⟨t, ht⟩ := memRead_of_loadBytes ha hregions hbs
  exact ⟨_, (readRow_inside hend).trans ht, rfl, rfl, rfl⟩

/-- A descriptor whose eight bytes memory holds is read as two dwords (R105). -/
theorem readDescriptor_of_loadBytes {s : State} {d : BitVec 32} {lo hi : List Byte} (hd : d.toNat % 4 = 0)
    (hend : d.toNat + 8 ≤ 2 ^ 32) (hregions : regionsAligned s.cfg) (hlo : s.loadBytes d.toNat 4 = .ok lo)
    (hhi : s.loadBytes (d.toNat + 4) 4 = .ok hi) :
    ∃ x y : Access, s.readDescriptor d = .next (leValue hi ++ leValue lo, (s.record x).record y) ∧
      (x.address, x.width, x.kind) = (d, .dword, .read) ∧ (y.address, y.width, y.kind) = (d + 4#32, .dword, .read) := by
  obtain ⟨x, hx, hxa, hxw, hxk⟩ := readRow_of_loadBytes (s := s) (base := d) (w := .dword) (offset := 0)
    (by simp only [Width.bytes]; omega) (by simp only [Width.bytes]; omega) hregions hlo
  obtain ⟨y, hy, hya, hyw, hyk⟩ := readRow_of_loadBytes (s := s.record x) (base := d) (w := .dword) (offset := 4)
    (by simp only [Width.bytes]; omega) (by simp only [Width.bytes]; omega) hregions
    ((State.loadBytes_record s x _ _).trans hhi)
  refine ⟨x, y, ?_, by simp [hxa, hxw, hxk], by simp [hya, hyw, hyk]⟩
  rw [State.readDescriptor, hx, andThen_of_next, hy, andThen_of_next]

/-! ### LTR and STR -/

/-- Outside protected mode LTR is an invalid opcode, at every level (R191, D41). -/
theorem exec_ltr_of_realMode {s : State} (h : s.env.protectedMode = false) (r : GReg) :
    exec (.ltr r) s = .fault (.exception .invalidOpcode none s.pc s) :=
  if_pos (by rw [h]; rfl)

theorem exec_str_of_realMode {s : State} (h : s.env.protectedMode = false) (r : GReg) :
    exec (.str r) s = .fault (.exception .invalidOpcode none s.pc s) :=
  if_pos (by rw [h]; rfl)

theorem exec_ltr_of_unprivileged {s : State} (hmode : s.env.protectedMode = true) (hlevel : s.env.cpl ≠ 0#2)
    (r : GReg) : exec (.ltr r) s = .fault (.exception .generalProtection (some 0#16) s.pc s) := by
  simp [exec, execLtr, hmode, hlevel, raiseException]

/-- A selector that names the LDT is a general protection exception (R192). -/
theorem exec_ltr_of_ldt {s : State} {r : GReg} (hmode : s.env.protectedMode = true) (hlevel : s.env.cpl = 0#2)
    (hldt : (s.reg16 r).getLsbD 2 = true) :
    exec (.ltr r) s = .fault (.exception .generalProtection (some (s.reg16 r)) s.pc s) := by
  simp [exec, execLtr, hmode, hlevel, namesGdt, hldt, raiseException]

theorem exec_ltr_of_no_entry {s : State} {r : GReg} (hmode : s.env.protectedMode = true) (hlevel : s.env.cpl = 0#2)
    (hentry : s.gdtEntry (s.reg16 r) = none) :
    exec (.ltr r) s = .fault (.exception .generalProtection (some (s.reg16 r)) s.pc s) := by
  simp [exec, execLtr, hmode, hlevel, hentry, raiseException]

/-- A descriptor that is read decides LTR by its kind (R192). -/
theorem exec_ltr_of_descriptor {s : State} {r : GReg} {d : BitVec 32} {x : BitVec 64 × State}
    (hmode : s.env.protectedMode = true) (hlevel : s.env.cpl = 0#2) (hgdt : (s.reg16 r).getLsbD 2 = false)
    (hentry : s.gdtEntry (s.reg16 r) = some d) (hread : s.readDescriptor d = .next x) :
    exec (.ltr r) s = if (s.tssKindOf x.1).isSome then .next ((x.2.loadTr (s.reg16 r) x.1).advance 3)
      else .fault (.exception .generalProtection (some (s.reg16 r)) s.pc s) := by
  have hnames : namesGdt (s.reg16 r) = true := by rw [namesGdt, hgdt, Bool.not_false]
  simp [exec, execLtr, hmode, hlevel, hnames, hentry, hread, raiseException]

/-- Settles O21: the descriptor is read, and only the Task Register and the list of accesses are written. -/
theorem ltrLoadsTheTaskRegister : Obligations.LtrLoadsTheTaskRegister := by
  intro r s d lo hi hmode hlevel hgdt hentry hd hend hregions hlo hhi hkind
  obtain ⟨x, y, hread, hx, hy⟩ := readDescriptor_of_loadBytes hd hend hregions hlo hhi
  have hexec := (exec_ltr_of_descriptor hmode hlevel hgdt hentry hread).trans (if_pos hkind)
  refine ⟨_, hexec, by simp, by simp, by simp, ?registers, by simp [sameMemory], by simp [sameSystem],
    by simp [sameDebug], by simp [sameConfig], by simp [sameSelection], by simp [samePlatform], by simp [noIoCycle],
    pcAdvanced_advance (s := s) (by rfl) (by rfl) 3, by simp [hx, hy]⟩
  case registers => exact sameRegisters.advance (fun _ => rfl) 3

/-- Settles O22: the conditions of LTR and STR in their order, each with the exception where it fails. -/
theorem taskRegisterInstructionsTrap : Obligations.TaskRegisterInstructionsTrap := by
  intro r s
  refine ⟨fun hmode => ⟨exec_ltr_of_realMode hmode r, exec_str_of_realMode hmode r⟩,
    fun hmode hlevel => exec_ltr_of_unprivileged hmode hlevel r, exec_ltr_of_ldt, exec_ltr_of_no_entry,
    fun d lo hi hmode hlevel hentry hd hend hregions hlo hhi hkind => ?kind⟩
  case kind =>
    cases hgdt : (s.reg16 r).getLsbD 2 with
    | true => exact exec_ltr_of_ldt hmode hlevel hgdt
    | false =>
      obtain ⟨x, y, hread, -, -⟩ := readDescriptor_of_loadBytes hd hend hregions hlo hhi
      rw [exec_ltr_of_descriptor hmode hlevel hgdt hentry hread, hkind]
      rfl

/-- Settles O23: in protected mode STR is a write of the low half of its register. -/
theorem strStoresTheSelector : Obligations.StrStoresTheSelector := by
  intro r s hmode
  have hexec : exec (.str r) s = .next ((s.setReg16 r s.trSelector).advance 3) := if_neg (by rw [hmode]; decide)
  have hframe : RegisterFrame s (s.setReg16 r s.trSelector) := .of_update ..
  refine ⟨_, hexec, ?_, ?_, (otherRegisters_setReg16 s r _).advance 3, hframe.advance 3,
    hframe.toPortFrame.pcAdvanced rfl 3⟩
  · rw [State.reg16_advance, State.reg16_setReg16_same]
  · rw [State.reg32_advance, highHalf_setReg16]

/-! ### The MOVs with a debug register -/

/-- For the six registers, at level 0 and with GD = 0, a MOV with a debug register is its move (R312, R313). -/
theorem debugMove_passes {s : State} {n : DrNum} (hn : n.named = true) (hlevel : s.env.cpl = 0#2)
    (hgd : s.dr7.getLsbD 13 = false) (f : Result State) : debugMove s n f = f := by
  have hgd : gdSet s.dr7 = false := hgd
  simp [debugMove, hn, hlevel, hgd]

/-- Settles O24: the MOV is the write of the register it names and an advance. -/
theorem movToDebugRegisterWrites : Obligations.MovToDebugRegisterWrites := by
  intro n r s hn hlevel hgd
  refine ⟨(s.writeDr n (s.reg32 r)).advance 3, debugMove_passes hn hlevel hgd _, fun i => ?address, ?dr6, ?dr7, ?frame⟩
  case address => rw [State.advance_dr, State.writeDr_dr]
  case dr6 => rw [State.advance_dr6, State.writeDr_dr6, dr6Mask]
  case dr7 => rw [State.advance_dr7, State.writeDr_dr7, dr7Mask]
  case frame =>
    rw [State.writeDr_eq]
    exact ⟨sameRegisters.advance (fun _ => rfl) 3, by simp [sameMemory], by simp [sameSystem], by simp [sameTaskRegister],
      by simp [sameConfig], by simp [sameSelection], by simp [samePlatform], by simp [noIoCycle], by simp [noAccess],
      pcAdvanced_advance (s := s) (by rfl) (by rfl) 3⟩

/-- The named bits of a register whose other bits are free read as they are (R313, D20). -/
theorem and_or_and_not (x y m : BitVec 32) : ((x &&& m) ||| (y &&& ~~~m)) &&& m = x &&& m := by
  apply BitVec.eq_of_getLsbD_eq
  intro k hk
  simp only [BitVec.getLsbD_and, BitVec.getLsbD_or, BitVec.getLsbD_not, hk, decide_true, Bool.true_and]
  cases m.getLsbD k <;> simp

/-- Reading a debug register draws a free value at most. -/
theorem State.readDr_state (s : State) (n : DrNum) : (s.readDr n).2 = { s with draws := (s.readDr n).2.draws } := by
  cases n <;> rfl

/-- DR0 to DR3 read as they are (R313). -/
theorem State.readDr_address {s : State} {n : DrNum} {i : Fin 4} (h : drAddress n = some i) :
    (s.readDr n).1 = s.dr[i] := by
  cases n <;> cases h <;> rfl

/-- Settles O25: the MOV is a register write of what is read, and an advance. -/
theorem movFromDebugRegisterReads : Obligations.MovFromDebugRegisterReads := by
  intro n r s hn hlevel hgd
  have hread : (((s.readDr n).2.setReg32 r (s.readDr n).1).advance 3).reg32 r = (s.readDr n).1 := by
    rw [State.reg32_advance, State.reg32_setReg32_same]
  refine ⟨((s.readDr n).2.setReg32 r (s.readDr n).1).advance 3, debugMove_passes hn hlevel hgd _,
    fun i hi => hread.trans (State.readDr_address hi), ?dr6, ?dr7, ?frame⟩
  case dr6 =>
    rintro rfl
    rw [hread]
    exact and_or_and_not _ _ dr6Mask
  case dr7 =>
    rintro rfl
    rw [hread]
    exact and_or_and_not _ _ dr7Mask
  case frame =>
    have hframe (v : BitVec 32) : RegisterFrame s ((s.readDr n).2.setReg32 r v) := by
      rw [State.readDr_state]
      exact .of_update ..
    have hothers (v : BitVec 32) : otherRegisters r s ((s.readDr n).2.setReg32 r v) := by
      rw [State.readDr_state]
      exact fun q hq => State.reg32_setReg32_other _ v hq
    have hpc (v : BitVec 32) : ((s.readDr n).2.setReg32 r v).pc = s.pc := by
      rw [State.readDr_state]
      rfl
    exact ⟨(hothers _).advance 3, (hframe _).advance 3, (hframe _).toPortFrame.pcAdvanced (hpc _) 3⟩

/-! ### LOOP -/

/-- What LOOP does at either address size: the count is written, and it decides where the run goes on (R271). -/
theorem exec_loop_spec (rel : BitVec 8) (s : State) :
    ∃ t, exec (.loop rel) s = .next t ∧ t.gpr = s.decLoopCount.gpr ∧ RegisterFrame s t ∧
      (s.decLoopCount.loopCount ≠ 0#32 → t.pc = s.relTarget rel) ∧
      (s.decLoopCount.loopCount = 0#32 → pcAdvanced 2 s t) := by
  have hframe : RegisterFrame s s.decLoopCount := by
    unfold State.decLoopCount
    split <;> exact .of_update ..
  by_cases hcount : s.decLoopCount.loopCount = 0#32
  · exact ⟨_, if_pos hcount, State.advance_gpr _ 2, hframe.advance 2, fun hne => absurd hcount hne,
      fun _ => pcAdvanced_advance (by simp) (by simp) 2⟩
  · exact ⟨_, if_neg hcount, rfl, { hframe with }, fun _ => rfl, fun h => absurd h hcount⟩

theorem State.decLoopCount_bits16 {s : State} (h : s.env.addrSize = .bits16) :
    s.decLoopCount = s.setReg16 .c (s.reg16 .c - 1#16) := by
  rw [State.decLoopCount, h]

theorem State.decLoopCount_bits32 {s : State} (h : s.env.addrSize = .bits32) :
    s.decLoopCount = s.setReg32 .c (s.reg32 .c - 1#32) := by
  rw [State.decLoopCount, h]

theorem State.loopCount_bits16 {s : State} (h : s.env.addrSize = .bits16) : s.loopCount = (s.reg16 .c).setWidth 32 := by
  rw [State.loopCount, h]

theorem State.loopCount_bits32 {s : State} (h : s.env.addrSize = .bits32) : s.loopCount = s.reg32 .c := by
  rw [State.loopCount, h]

/-- The displacement of a LOOP is signed (R143): the sum modulo 2^32. -/
theorem toNat_add_signExtend (pc : BitVec 32) (rel : BitVec 8) :
    ((pc + 2#32 + rel.signExtend 32).toNat : Int) = ((pc.toNat : Int) + 2 + rel.toInt) % 4294967296 := by
  have hsigned : (rel.signExtend 32).toInt = rel.toInt := BitVec.toInt_signExtend_of_le (by decide)
  rw [← hsigned, BitVec.toInt_eq_toNat_cond, BitVec.toNat_add, BitVec.toNat_add, BitVec.toNat_ofNat]
  split <;> omega

theorem State.relTarget_bits32 {s : State} (h : s.env.addrSize = .bits32) (rel : BitVec 8) :
    ((s.relTarget rel).toNat : Int) = ((s.pc.toNat : Int) + 2 + rel.toInt) % 4294967296 := by
  rw [State.relTarget, h]
  exact toNat_add_signExtend s.pc rel

theorem State.relTarget_bits16 {s : State} (h : s.env.addrSize = .bits16) (rel : BitVec 8) :
    ((s.relTarget rel).toNat : Int) = ((s.pc.toNat : Int) + 2 + rel.toInt) % 65536 := by
  have hsum := toNat_add_signExtend s.pc rel
  have hcut (x : BitVec 32) : ((x.extractLsb' 0 16).setWidth 32).toNat = x.toNat % 65536 := by
    rw [BitVec.toNat_setWidth, BitVec.extractLsb'_toNat, Nat.shiftRight_zero]
    omega
  simp only [State.relTarget, h, hcut]
  omega

/-- Settles O35: the count is CX, and the branch is taken unless CX was 1. -/
theorem loopCountsInCx : Obligations.LoopCountsInCx := by
  intro rel s hsize
  obtain ⟨t, hexec, hgpr, hframe, hbranch, hfall⟩ := exec_loop_spec rel s
  rw [State.decLoopCount_bits16 hsize] at hgpr hbranch hfall
  rw [State.loopCount_bits16 (by simpa using hsize), State.reg16_setReg16_same] at hbranch hfall
  have hzero : (s.reg16 .c - 1#16).setWidth 32 = 0#32 ↔ s.reg16 .c = 1#16 := by bv_omega
  refine ⟨t, hexec, ?count, ?high, fun q hq => ?others, hframe, fun hc => ?branch, fun hc => hfall (hzero.2 hc)⟩
  case count =>
    rw [State.reg16_congr hgpr, State.reg16_setReg16_same, BitVec.toNat_sub, BitVec.toNat_ofNat]
    omega
  case high => rw [State.reg32_congr hgpr, highHalf_setReg16]
  case others => rw [State.reg32_congr hgpr, otherRegisters_setReg16 s .c _ q hq]
  case branch => rw [hbranch (mt hzero.1 hc), State.relTarget_bits16 hsize]

/-- Settles O36: the count is ECX, and the branch is taken unless ECX was 1. -/
theorem loopCountsInEcx : Obligations.LoopCountsInEcx := by
  intro rel s hsize
  obtain ⟨t, hexec, hgpr, hframe, hbranch, hfall⟩ := exec_loop_spec rel s
  rw [State.decLoopCount_bits32 hsize] at hgpr hbranch hfall
  rw [State.loopCount_bits32 (by simpa using hsize), State.reg32_setReg32_same] at hbranch hfall
  have hzero : s.reg32 .c - 1#32 = 0#32 ↔ s.reg32 .c = 1#32 := by bv_omega
  refine ⟨t, hexec, ?count, fun q hq => ?others, hframe, fun hc => ?branch, fun hc => hfall (hzero.2 hc)⟩
  case count =>
    rw [State.reg32_congr hgpr, State.reg32_setReg32_same, BitVec.toNat_sub, BitVec.toNat_ofNat]
    omega
  case others => rw [State.reg32_congr hgpr, otherRegisters_setReg32 s .c _ q hq]
  case branch => rw [hbranch (mt hzero.1 hc), State.relTarget_bits32 hsize]

end Sys2Proof.Machine
end

section
/-! The four port instructions on every path: what a port write and a port read answer, where they are refused, and the frame
of an IN. From these the remaining statements on ports 22h and 23h. -/

namespace Sys2Proof.Machine

/-! ### Port accesses that go on -/

theorem ioWrite8_external {s : State} {port : BitVec 16} (h : portAllowed s) (h22 : port ≠ 0x22#16)
    (h23 : port = 0x23#16 → s.cfgArmed = false) (v : BitVec 8) : ioWrite8 s port v = .next (s.extWrite port v) := by
  by_cases hport : port = 0x23#16
  · have harmed := h23 hport
    simp [ioWrite8, (ioPermitted_iff s).2 h, hport, harmed]
  · simp [ioWrite8, (ioPermitted_iff s).2 h, h22, hport]

theorem ioRead8_external {s : State} {port : BitVec 16} (h : portAllowed s)
    (hidle : port = 0x22#16 ∨ port = 0x23#16 → s.cfgArmed = false) : ioRead8 s port = .next (s.extRead port) := by
  by_cases h22 : port = 0x22#16
  · have harmed := hidle (.inl h22)
    simp [ioRead8, (ioPermitted_iff s).2 h, h22, harmed]
  · by_cases h23 : port = 0x23#16
    · have harmed := hidle (.inr h23)
      simp [ioRead8, (ioPermitted_iff s).2 h, h23, harmed]
    · simp [ioRead8, (ioPermitted_iff s).2 h, h22, h23]

theorem ioRead8_armed {s : State} (h : portAllowed s) (ha : s.cfgArmed = true) : ioRead8 s 0x23#16 = armedRead s := by
  simp [ioRead8, (ioPermitted_iff s).2 h, ha]

/-- An on-chip write of a writable register with no reserved bit stores the byte of R233 and uses the selection up. -/
theorem armedWrite_stores {s : State} {v : BitVec 8} (hclass : classify s.cfgIndex (mapen s.cfg) = .onChip)
    (hplace : (configPlace s.cfgIndex).isSome = true) (hv : v &&& reservedMask s.cfgIndex = 0#8) :
    armedWrite s v =
      .next (s.disarm.setCfg (configStore s.cfg s.cfgIndex (newConfigByte s.cfg s.env.smm s.cfgIndex v))) := by
  have hdir : ¬ (s.cfgIndex = 0xFE#8 ∨ s.cfgIndex = 0xFF#8) := by
    rintro (hi | hi) <;> simp [hi] at hplace
  rw [armedWrite, hclass]
  exact (if_neg hdir).trans (if_neg (not_not_intro hv))

theorem armedRead_onChip {s : State} (h : classify s.cfgIndex (mapen s.cfg) = .onChip) :
    armedRead s = .next (configByte s.cfg s.cfgIndex, s.disarm) := by
  rw [armedRead, h]

theorem armedRead_external {s : State} (h : classify s.cfgIndex (mapen s.cfg) = .external) :
    armedRead s = .next (s.disarm.extRead 0x23#16) := by
  rw [armedRead, h]

theorem armedRead_noRegister {s : State} (h : classify s.cfgIndex (mapen s.cfg) = .noRegister) :
    armedRead s = .next (Config.freeByte s.draws, s.disarm.tick) := by
  rw [armedRead, h]

/-! ### OUT -/

theorem PortFrame.refl (s : State) : PortFrame s s where
  memory _ := ⟨rfl, rfl⟩
  system := ⟨rfl, rfl, rfl, rfl⟩
  taskRegister := ⟨rfl, rfl, rfl⟩
  debug := ⟨rfl, rfl, rfl⟩
  platform := ⟨rfl, rfl, rfl, rfl⟩
  access := rfl

/-- Settles O40: the port write is one external cycle. -/
theorem outElsewhereIsExternal : Obligations.OutElsewhereIsExternal := by
  intro i s port n hwrites hallowed h22 h23
  have hexec := exec_of_portWrite hwrites (ioWrite8_external hallowed h22 h23 (s.reg8 .al))
  have hregs : sameRegisters s (s.extWrite port (s.reg8 .al)) := fun _ => rfl
  have hframe := (PortFrame.refl s).extWrite port (s.reg8 .al)
  exact ⟨_, hexec, State.advance_ioCycles _ n, ⟨State.advance_cfgIndex _ n, State.advance_cfgArmed _ n⟩,
    State.advance_cfg _ n, hregs.advance n, hframe.advance n, hframe.pcAdvanced rfl n⟩

/-- Settles O41: the byte of R233 is stored, bit by bit, and the two masks are read off their definitions. -/
theorem outToPort23StoresTheRegister : Obligations.OutToPort23StoresTheRegister := by
  refine ⟨fun i s n hwrites hallowed harmed hclass hplace hv => ?stores, by decide, by decide⟩
  have hexec := exec_of_portWrite hwrites ((ioWrite8_armed hallowed harmed _).trans (armedWrite_stores hclass hplace hv))
  obtain ⟨p, hp⟩ := Option.isSome_iff_exists.1 hplace
  have hframe (cf : ConfigFile) : PortFrame s (s.disarm.setCfg cf) := { PortFrame.disarm s with }
  have hregs (cf : ConfigFile) : sameRegisters s (s.disarm.setCfg cf) := fun _ => rfl
  refine ⟨_, hexec, State.advance_cfgArmed _ n, State.advance_cfgIndex _ n, fun k hk => ?bits, fun j hj => ?others,
    (hregs _).advance n, (hframe _).advance n, State.advance_ioCycles _ n, (hframe _).pcAdvanced rfl n⟩
  case bits =>
    rw [State.advance_cfg, State.setCfg_cfg, configByte_configStore_same _ _ hp, newConfigByte_bit _ _ _ _ hk]
  case others => rw [State.advance_cfg, State.setCfg_cfg, configByte_configStore_other _ _ hj]

/-! ### IN -/

/-- Both forms of IN are the byte of their port read into AL, then the advance past them (R241, R243). -/
theorem exec_of_readsPort {i : Instr} {s : State} {port : BitVec 16} {n : Nat} (h : readsPort i s port n) :
    exec i s = inByte s port n := by
  obtain ⟨p, rfl, rfl, rfl⟩ | ⟨rfl, rfl, rfl⟩ := h <;> rfl

/-- What an IN leaves, where its port read left the registers and the frame of a port instruction: AL holds the byte read,
and nothing else of the registers changes. -/
theorem exec_of_portRead {i : Instr} {s t : State} {v : BitVec 8} {port : BitVec 16} {n : Nat}
    (h : readsPort i s port n) (hread : ioRead8 s port = .next (v, t)) (hframe : PortFrame s t) (hgpr : t.gpr = s.gpr)
    (hpc : t.pc = s.pc) :
    exec i s = .next ((t.setAl v).advance n) ∧ ((t.setAl v).advance n).reg8 .al = v ∧
      otherBytes .al s ((t.setAl v).advance n) ∧ PortFrame s ((t.setAl v).advance n) ∧
      pcAdvanced n s ((t.setAl v).advance n) := by
  have hframe : PortFrame s (t.setAl v) := { hframe with }
  have hothers : otherBytes .al s (t.setReg8 .al v) := by
    simpa only [otherBytes, otherRegisters, State.reg32_congr hgpr, State.reg8_congr hgpr] using
      otherBytes_setReg8 t .al v
  refine ⟨?_, ?_, hothers.advance n, hframe.advance n, hframe.pcAdvanced hpc n⟩
  · rw [exec_of_readsPort h, inByte, hread, andThen_of_next]
  · rw [State.reg8_advance]
    exact State.reg8_setReg8_same t .al v

/-- An external read cycle is outside the frame of a port instruction, so it is kept over one. -/
theorem PortFrame.extRead {s t : State} (h : PortFrame s t) (port : BitVec 16) : PortFrame s (t.extRead port).2 :=
  { h with }

/-- Settles O44: the port read is one external cycle, and AL takes its value. -/
theorem inElsewhereIsExternal : Obligations.InElsewhereIsExternal := by
  intro i s port n hreads hallowed hidle
  obtain ⟨hexec, hal, hothers, hframe, hpc⟩ := exec_of_portRead hreads (ioRead8_external hallowed hidle)
    ((PortFrame.refl s).extRead port) rfl rfl
  refine ⟨_, hexec, ?_, ⟨State.advance_cfgIndex _ n, State.advance_cfgArmed _ n⟩, State.advance_cfg _ n, hothers, hframe,
    hpc⟩
  rw [hal]
  exact State.advance_ioCycles _ n

/-- Settles O45: the port read is the register selected, without a cycle. -/
theorem inFromPort23ReadsTheRegister : Obligations.InFromPort23ReadsTheRegister := by
  intro i s n hreads hallowed harmed hclass
  obtain ⟨hexec, hal, hothers, hframe, hpc⟩ := exec_of_portRead hreads
    ((ioRead8_armed hallowed harmed).trans (armedRead_onChip hclass)) (PortFrame.disarm s) rfl rfl
  exact ⟨_, hexec, hal, State.advance_cfgArmed _ n, State.advance_cfgIndex _ n, State.advance_cfg _ n, hothers, hframe,
    State.advance_ioCycles _ n, hpc⟩

/-- Settles O46: the port read is an external cycle, or a free byte without one; the selection is used up before either. -/
theorem inFromPort23ElsewhereUsesTheSelection : Obligations.InFromPort23ElsewhereUsesTheSelection := by
  intro i s n hreads hallowed harmed
  refine ⟨fun hclass => ?external, fun hclass => ?noRegister⟩
  case external =>
    obtain ⟨hexec, hal, hothers, hframe, hpc⟩ := exec_of_portRead hreads
      ((ioRead8_armed hallowed harmed).trans (armedRead_external hclass)) ((PortFrame.disarm s).extRead 0x23#16) rfl rfl
    refine ⟨_, hexec, State.advance_cfgArmed _ n, ?_, State.advance_cfg _ n, hothers, hframe, hpc⟩
    rw [hal]
    exact State.advance_ioCycles _ n
  case noRegister =>
    obtain ⟨hexec, -, hothers, hframe, hpc⟩ := exec_of_portRead hreads
      ((ioRead8_armed hallowed harmed).trans (armedRead_noRegister hclass)) { PortFrame.disarm s with } rfl rfl
    exact ⟨_, hexec, State.advance_cfgArmed _ n, State.advance_ioCycles _ n, State.advance_cfg _ n, hothers, hframe, hpc⟩

/-! ### One selection, one transfer -/

/-- A write to port 23h that completes leaves no selection, and without one it is an external cycle. -/
theorem outByte_port23 {s t : State} {n : Nat} (h : outByte s 0x23#16 n = .next t) :
    t.cfgArmed = false ∧ (s.cfgArmed = false → t.cfg = s.cfg ∧ ∃ c, t.ioCycles = c :: s.ioCycles) := by
  obtain ⟨u, hu, rfl⟩ := outByte_next h
  rw [State.advance_cfgArmed, State.advance_cfg, State.advance_ioCycles]
  obtain ⟨-, ⟨hport, -⟩ | ⟨-, harmed, hu⟩ | ⟨-, hidle, rfl⟩⟩ := ioWrite8_next hu
  · exact absurd hport (by decide)
  · refine ⟨?_, fun hunarmed => absurd (harmed.symm.trans hunarmed) (by decide)⟩
    obtain ⟨-, hu⟩ | ⟨-, rfl⟩ := armedWrite_next hu
    · obtain ⟨-, rfl⟩ | ⟨-, -, rfl⟩ := configWrite_next hu <;> rfl
    · rfl
  · exact ⟨hidle rfl, fun _ => ⟨rfl, _, rfl⟩⟩

/-- A read of port 23h, likewise. -/
theorem inByte_port23 {s t : State} {n : Nat} (h : inByte s 0x23#16 n = .next t) :
    t.cfgArmed = false ∧ (s.cfgArmed = false → t.cfg = s.cfg ∧ ∃ c, t.ioCycles = c :: s.ioCycles) := by
  obtain ⟨r, hr, rfl⟩ := inByte_next h
  rw [State.advance_cfgArmed, State.advance_cfg, State.advance_ioCycles]
  obtain ⟨-, ⟨-, harmed, hr⟩ | ⟨hidle, rfl⟩⟩ := ioRead8_next hr
  · refine ⟨?_, fun hunarmed => absurd (harmed.symm.trans hunarmed) (by decide)⟩
    obtain ⟨-, rfl⟩ | ⟨-, rfl⟩ | ⟨-, rfl⟩ := armedRead_next hr <;> rfl
  · exact ⟨hidle (.inr rfl), fun _ => ⟨rfl, _, rfl⟩⟩

theorem exec_port23 {i : Instr} {s t : State} {n : Nat} (hport : writesPort i s 0x23#16 n ∨ readsPort i s 0x23#16 n)
    (h : exec i s = .next t) :
    t.cfgArmed = false ∧ (s.cfgArmed = false → t.cfg = s.cfg ∧ ∃ c, t.ioCycles = c :: s.ioCycles) := by
  obtain hwrites | hreads := hport
  · exact outByte_port23 (n := n) (exec_of_writesPort hwrites ▸ h)
  · exact inByte_port23 (n := n) (exec_of_readsPort hreads ▸ h)

/-- Settles O47: the first access leaves no selection, and without one the second is an external cycle. -/
theorem oneSelectionBuysOneTransfer : Obligations.OneSelectionBuysOneTransfer := by
  intro i j s t u n m hi ht hj hu
  obtain ⟨harmed, -⟩ := exec_port23 hi ht
  obtain ⟨harmed', hexternal⟩ := exec_port23 hj hu
  exact ⟨harmed, harmed', hexternal harmed⟩

/-! ### Refusals -/

theorem ioPermitted_of_not_allowed {s : State} (h : ¬ portAllowed s) : s.ioPermitted = false :=
  Bool.eq_false_iff.2 (mt (ioPermitted_iff s).1 h)

theorem exec_of_portWrite_refused {i : Instr} {s : State} {port : BitVec 16} {n : Nat} {r : Refusal}
    (h : writesPort i s port n) (hr : ioWrite8 s port (s.reg8 .al) = .refused r) : exec i s = .refused r := by
  rw [exec_of_writesPort h, outByte, State.al, hr, andThen_of_refused]

theorem exec_of_portRead_refused {i : Instr} {s : State} {port : BitVec 16} {n : Nat} {r : Refusal}
    (h : readsPort i s port n) (hr : ioRead8 s port = .refused r) : exec i s = .refused r := by
  rw [exec_of_readsPort h, inByte, hr, andThen_of_refused]

/-- Settles O43: each refusal is that of the port access, and both forms pass it on. -/
theorem portInstructionsRefuse : Obligations.PortInstructionsRefuse := by
  intro i s port n hport
  refine ⟨fun hforbidden => ?permission, fun hallowed hreads hp harmed => ?port22, fun hallowed hp harmed hclass => ?mapen,
    fun hallowed hwrites hp harmed hclass => ?noRegister, fun hallowed hwrites hp harmed hclass hv => ?reserved⟩
  case permission =>
    have hdenied := ioPermitted_of_not_allowed hforbidden
    obtain hwrites | hreads := hport
    · exact exec_of_portWrite_refused hwrites (by rw [ioWrite8, hdenied]; rfl)
    · exact exec_of_portRead_refused hreads (by rw [ioRead8, hdenied]; rfl)
  case port22 =>
    refine exec_of_portRead_refused hreads ?_
    simp [ioRead8, (ioPermitted_iff s).2 hallowed, hp, harmed]
  all_goals subst hp
  case mapen =>
    obtain hwrites | hreads := hport
    · exact exec_of_portWrite_refused hwrites (by rw [ioWrite8_armed hallowed harmed, armedWrite, hclass])
    · exact exec_of_portRead_refused hreads (by rw [ioRead8_armed hallowed harmed, armedRead, hclass])
  case noRegister =>
    exact exec_of_portWrite_refused hwrites (by rw [ioWrite8_armed hallowed harmed, armedWrite, hclass])
  case reserved =>
    have hdir : ¬ (s.cfgIndex = 0xFE#8 ∨ s.cfgIndex = 0xFF#8) := by
      rintro (hi | hi) <;> exact hv (by rw [hi]; exact BitVec.and_zero)
    refine exec_of_portWrite_refused hwrites ?_
    rw [ioWrite8_armed hallowed harmed, armedWrite, hclass]
    exact (if_neg hdir).trans (if_pos hv)

end Sys2Proof.Machine
end

section
/-! Address regions where they are hit, and the memory operations: what the attributes of an access say of the regions hit,
what a misaligned region and the fixed region refuse, which byte store an access reaches, and that a write reads back. From
these the remaining statements on regions and memory. -/

namespace Sys2Proof.Machine

/-! ### The regions an address hits -/

theorem mem_regionNumbers (n : Fin 8) : n ∈ regionNumbers := by revert n; decide

theorem mem_hitRegions (cf : ConfigFile) (a : Nat) (n : Fin 8) : n ∈ hitRegions cf a ↔ regionHit cf n a = true := by
  simp [hitRegions, mem_regionNumbers]

/-- ARREN is bit 5 of CCR5, read at index E9h (R18). -/
theorem arren_eq (cf : ConfigFile) : arren cf = (configByte cf 0xE9#8).getLsbD 5 := rfl

/-- SM3 is bit 7 of CCR1, read at index C1h (R14). -/
theorem sm3_eq (cf : ConfigFile) : sm3 cf = (configByte cf 0xC1#8).getLsbD 7 := rfl

/-- NO_LOCK is bit 4 of CCR1, read at index C1h (R14). -/
theorem noLock_eq (cf : ConfigFile) : noLock cf = (configByte cf 0xC1#8).getLsbD 4 := rfl

/-- A region is active while it is enabled, by ARREN or for region 3 by SM3, and its SIZE is not 0 (R284, R285). -/
theorem regionActive_iff (cf : ConfigFile) (n : Fin 8) :
    regionActive cf n = true ↔ (arren cf = true ∨ (n = 3 ∧ sm3 cf = true)) ∧ arrSize cf n ≠ 0#4 := by
  simp [regionActive, regionEnabled]

theorem regionHit_iff (cf : ConfigFile) (n : Fin 8) (a : Nat) :
    regionHit cf n a = true ↔
      regionActive cf n = true ∧ regionStart cf n ≤ a ∧ a < regionStart cf n + regionSize cf n := by
  simp [regionHit, and_assoc]

/-- SIZE is not 0 where the low half of its byte is not. -/
theorem arrSize_ne_zero_iff (cf : ConfigFile) (n : Fin 8) :
    arrSize cf n ≠ 0#4 ↔ (configByte cf (BitVec.ofNat 8 (0xC6 + 3 * n.val))).toNat % 16 ≠ 0 := by
  have hbyte : configByte cf (BitVec.ofNat 8 (0xC6 + 3 * n.val)) = arrByte cf n 2 := configByte_arr cf n 2
  rw [hbyte, ← toNat_arrSize, ne_eq, ← BitVec.toNat_inj]
  rfl

/-- RCRn is the register at index DCh + n (R22). -/
theorem configByte_rcr (cf : ConfigFile) (n : Fin 8) : configByte cf (BitVec.ofNat 8 (0xDC + n.val)) = rcr cf n := by
  have hidx : (BitVec.ofNat 8 (0xDC + n.val)).toNat = 0xDC + n.val := by
    rw [BitVec.toNat_ofNat]
    omega
  have hplace : 0xDC + n.val - 0xC0 = 28 + n.val := by omega
  rw [configByte_of_place cf (configPlace_low (by omega) (by omega)), rcr]
  simp only [hidx, hplace, Fin.getElem_fin]

/-! ### The attributes of an access -/

/-- Attributes are resolved only while every active region is aligned (R283). -/
theorem attributesOf_ok {cf : ConfigFile} {rce ken wbwt : Bool} {a : Nat} {t : Attributes}
    (h : attributesOf rce cf ken wbwt a = .ok t) : regionsAligned cf ∧ t = resolveAttributes rce cf ken wbwt a := by
  unfold attributesOf at h
  split at h
  · cases h
  next hfind =>
    cases h
    exact ⟨fun n => Bool.eq_false_iff.2 (List.find?_eq_none.1 hfind n (mem_regionNumbers n)), rfl⟩

theorem attributes_ok {s : State} {a : Nat} {t : Attributes} (h : s.attributes a = .ok t) :
    regionsAligned s.cfg ∧ ∃ rce ken wbwt, t = resolveAttributes rce s.cfg ken wbwt a := by
  obtain ⟨haligned, ht⟩ := attributesOf_ok h
  exact ⟨haligned, _, _, _, ht⟩

/-- WG, WL, WWO and NLB are given by a region that is hit, where every region hit gives them (R299). -/
theorem givenByAll_iff (hits : List (Fin 8)) (f : Fin 8 → Bool) :
    givenByAll hits f = true ↔ (∃ n, n ∈ hits) ∧ ∀ n ∈ hits, f n = true := by
  rw [givenByAll, Bool.and_eq_true, Bool.not_eq_true', List.isEmpty_eq_false_iff_exists_mem, List.all_eq_true]

/-- A region hit that does not give one of them wins over the others (R299, D16). -/
theorem givenByAll_eq_false {hits : List (Fin 8)} {f : Fin 8 → Bool} {n : Fin 8} (hn : n ∈ hits) (hf : f n = false) :
    givenByAll hits f = false :=
  Bool.eq_false_iff.2 fun hall => Bool.false_ne_true (hf.symm.trans (((givenByAll_iff hits f).1 hall).2 n hn))

/-- Region 7 forbids caching by RCE = 0, the others by RCD = 1 (R290, R291). -/
theorem regionNoncacheable_iff (cf : ConfigFile) (n : Fin 8) :
    regionNoncacheable cf n = true ↔ if n = 7 then rcdRce cf n = false else rcdRce cf n = true := by
  unfold regionNoncacheable
  split <;> simp

theorem regionCacheable_iff (cf : ConfigFile) (n : Fin 8) :
    regionNoncacheable cf n = false ↔ if n = 7 then rcdRce cf n = true else rcdRce cf n = false := by
  unfold regionNoncacheable
  split <;> simp

/-- The three ways caching is forbidden: a region that is hit, RCE = 1 outside region 7, NC1 (R299, R291, R302). -/
theorem noncacheable_iff (rce : Bool) (cf : ConfigFile) (a : Nat) :
    noncacheable rce cf a = true ↔ (∃ n, regionHit cf n a = true ∧ regionNoncacheable cf n = true) ∨
      (rce = true ∧ regionActive cf 7 = true ∧ rcdRce cf 7 = true ∧ regionHit cf 7 a = false) ∨
      (0xA0000 ≤ a ∧ a ≤ 0xFFFFF ∧ nc1 cf = true) := by
  have h7 : (hitRegions cf a).contains 7 = regionHit cf 7 a := by
    rw [Bool.eq_iff_iff, List.contains_iff_mem, mem_hitRegions]
  simp only [noncacheable, h7, Bool.or_eq_true, Bool.and_eq_true, List.any_eq_true, mem_hitRegions, inRegion1_iff,
    Bool.not_eq_true', or_assoc, and_assoc]
  exact or_congr Iff.rfl (or_congr (by tauto) Iff.rfl)

/-- What wins where regions overlap: what one region hit forbids, whatever the others say (R299, D16). -/
theorem resolveAttributes_forbidden {cf : ConfigFile} {a : Nat} {n : Fin 8} (hn : regionHit cf n a = true)
    (rce ken wbwt : Bool) :
    let t := resolveAttributes rce cf ken wbwt a
    (nlb cf n = false → t.lbaAsserted = true) ∧
      (regionNoncacheable cf n = true → t.cachePermitted = false ∧ t.cached = false ∧ t.writeBack = false) ∧
      (wt cf n = true → t.writeBack = false) ∧ (wg cf n = false → t.gathered = false) ∧
      (wl cf n = false → noLock cf = false → t.weakLock = false) ∧ (wwo cf n = false → t.weakOrder = false) := by
  have hmem : n ∈ hitRegions cf a := (mem_hitRegions cf a n).2 hn
  refine ⟨fun h => ?lba, fun h => ?cache, fun h => ?writeBack, givenByAll_eq_false hmem, fun h hlock => ?lock,
    givenByAll_eq_false hmem⟩
  case lba => simp [resolveAttributes, givenByAll_eq_false hmem h]
  case cache =>
    have hno : noncacheable rce cf a = true := (noncacheable_iff rce cf a).2 (.inl ⟨n, hn, h⟩)
    simp [resolveAttributes, hno]
  case writeBack =>
    have hany : (hitRegions cf a).any (wt cf) = true := List.any_eq_true.2 ⟨n, hmem, h⟩
    simp [resolveAttributes, hany]
  case lock => simp [resolveAttributes, givenByAll_eq_false hmem h, hlock]

/-- What stands where regions overlap: a value on which every region hit agrees (R299). -/
theorem resolveAttributes_agreed {cf : ConfigFile} {a : Nat} (hhit : ∃ n : Fin 8, regionHit cf n a = true)
    (rce ken wbwt : Bool) :
    let t := resolveAttributes rce cf ken wbwt a
    ((∀ n, regionHit cf n a = true → wg cf n = true) → t.gathered = true) ∧
      ((∀ n, regionHit cf n a = true → wl cf n = true) → t.weakLock = true) ∧
      ((∀ n, regionHit cf n a = true → wwo cf n = true) → t.weakOrder = true) ∧
      ((∀ n, regionHit cf n a = true → nlb cf n = true) → ¬ (0xA0000 ≤ a ∧ a ≤ 0xFFFFF ∧ lbr1 cf = true) →
        t.lbaAsserted = false) := by
  have hall {f : Fin 8 → Bool} (h : ∀ n, regionHit cf n a = true → f n = true) :
      givenByAll (hitRegions cf a) f = true := by
    simp only [givenByAll_iff, mem_hitRegions]
    exact ⟨hhit, h⟩
  refine ⟨hall, fun h => ?lock, hall, fun h hfixed => ?lba⟩
  case lock => simp [resolveAttributes, hall h]
  case lba =>
    have hfixed : (inRegion1 a && lbr1 cf) = false := by
      rw [Bool.eq_false_iff, ne_eq, Bool.and_eq_true, inRegion1_iff, and_assoc]
      exact hfixed
    simp [resolveAttributes, hall h, hfixed]

/-- Where no region hit forbids caching, and neither NC1 nor RCE = 1 does, the pins decide (R299, D19). -/
theorem resolveAttributes_cacheable {rce : Bool} {cf : ConfigFile} {a : Nat} (h : noncacheable rce cf a = false)
    (ken wbwt : Bool) :
    let t := resolveAttributes rce cf ken wbwt a
    t.cachePermitted = true ∧ t.cached = ken ∧
      ((∀ n, regionHit cf n a = true → wt cf n = false) → t.writeBack = (ken && wbwt)) := by
  refine ⟨by simp [resolveAttributes, h], by simp [resolveAttributes, h], fun hwt => ?_⟩
  have hany : (hitRegions cf a).any (wt cf) = false := by
    simpa [List.any_eq_false, mem_hitRegions] using hwt
  simp [resolveAttributes, h, hany]

/-- Settles O51: which regions are hit and what they say is read off the file, and the resolution folds over them. -/
theorem overlappingRegionsPrecedence : Obligations.OverlappingRegionsPrecedence := by
  refine ⟨fun cf n a => ?hit, fun cf n => ?bits, fun cf ken wbwt rce a t ht => ?attributes⟩
  case hit => rw [regionHit_iff, regionActive_iff, arren_eq, sm3_eq, arrSize_ne_zero_iff, and_assoc]
  case bits =>
    simp only [configByte_rcr]
    exact ⟨rfl, rfl, rfl, rfl, rfl, rfl⟩
  case attributes =>
    obtain ⟨-, rfl⟩ := attributesOf_ok ht
    refine ⟨fun hlock => ?noLock, fun n hn => ?forbidden, fun hhit => ?agreed⟩
    case noLock => simp [resolveAttributes, noLock_eq, hlock]
    case forbidden =>
      rw [← regionNoncacheable_iff]
      exact resolveAttributes_forbidden hn rce ken wbwt
    case agreed =>
      obtain ⟨hwg, hwl, hwwo, hnlb⟩ := resolveAttributes_agreed hhit rce ken wbwt
      refine ⟨hwg, hwl, hwwo, hnlb, fun hcacheable hnc1 hrce => resolveAttributes_cacheable ?_ ken wbwt⟩
      rw [Bool.eq_false_iff, ne_eq, noncacheable_iff]
      rintro (⟨n, hn, hno⟩ | hno | hno)
      · exact Bool.false_ne_true (((regionCacheable_iff cf n).2 (hcacheable n hn)).symm.trans hno)
      · exact hrce hno
      · exact hnc1 hno

/-! ### A misaligned region and the fixed region -/

/-- Settles O52: the first misaligned region is the answer of every resolution, and each access begins with one. -/
theorem misalignedRegionStopsEveryAccess : Obligations.MisalignedRegionStopsEveryAccess := by
  intro s n henabled hsize hstart
  have hn : regionUnaligned s.cfg n = true := by
    simp [regionUnaligned, (regionActive_iff s.cfg n).2 ⟨henabled, hsize⟩, hstart]
  obtain ⟨m, hm⟩ := Option.isSome_iff_exists.1 (List.find?_isSome.2 ⟨n, mem_regionNumbers n, hn⟩)
  have herror (rce ken wbwt : Bool) (a : Nat) : attributesOf rce s.cfg ken wbwt a = .error m := by rw [attributesOf, hm]
  have hcheck {a : BitVec 32} {w : Width} (ha : a.toNat % w.bytes = 0) :
      s.checkAccess a w = .refused (.regionMisaligned m) := by
    rw [checkAccess_aligned ha, State.attributes, State.attributesAt, herror]
  refine ⟨m, List.find?_some hm, herror, fun a v w ha => ⟨?read, ?write⟩, ?fetch⟩
  case read => rw [State.memRead, hcheck ha, andThen_of_refused]
  case write => rw [State.memWrite, hcheck ha, andThen_of_refused]
  case fetch => rw [State.fetch, State.fetchAttributes, State.attributesAt, herror]

/-- In 640 KByte to 1 MByte the write protection is WPR1, where the address is cacheable (R302). -/
theorem resolveAttributes_writeProtected {cf : ConfigFile} {a : Nat} (hlo : 0xA0000 ≤ a) (hhi : a ≤ 0xFFFFF)
    (rce ken wbwt : Bool) : (resolveAttributes rce cf ken wbwt a).writeProtected =
      (wpr1 cf && (resolveAttributes rce cf ken wbwt a).cachePermitted) := by
  simp [resolveAttributes, (inRegion1_iff a).2 ⟨hlo, hhi⟩]

/-- Settles O53: the three bits in the resolution, and the write that the third refuses. -/
theorem fixedRegionBits : Obligations.FixedRegionBits := by
  refine ⟨fun cf ken wbwt rce a t ht hlo hhi => ?bits, fun s a v w t ha ht hlo hhi hwpr1 hpermitted => ?write⟩
  case bits =>
    obtain ⟨-, rfl⟩ := attributesOf_ok ht
    refine ⟨fun hnc1 => ?nc1, fun hlbr1 => ?lbr1, resolveAttributes_writeProtected hlo hhi rce ken wbwt⟩
    case nc1 =>
      have hno : noncacheable rce cf a = true := (noncacheable_iff rce cf a).2 (.inr (.inr ⟨hlo, hhi, hnc1⟩))
      simp [resolveAttributes, hno]
    case lbr1 => simp [resolveAttributes, (inRegion1_iff a).2 ⟨hlo, hhi⟩, hlbr1]
  case write =>
    obtain ⟨-, rce, ken, wbwt, rfl⟩ := attributes_ok ht
    have hprotected := resolveAttributes_writeProtected (cf := s.cfg) hlo hhi rce ken wbwt
    rw [hwpr1, hpermitted] at hprotected
    rw [State.memWrite, checkAccess_aligned ha, ht, andThen_of_next]
    exact if_pos hprotected

/-! ### The two byte stores -/

theorem reachesSmm_iff (s : State) (a : Nat) : s.reachesSmm a = true ↔
    (sm3 s.cfg = true ∧ regionStart s.cfg 3 ≤ a ∧ a < regionStart s.cfg 3 + regionSize s.cfg 3) ∧
      (smac s.cfg = true ∨ s.env.smm = true) := by
  simp [State.reachesSmm, inSmmSpace, and_assoc]

/-- Settles O54: both the load and the store of a byte pick the store the access reaches. -/
theorem smacSelectsSystemManagementMemory : Obligations.SmacSelectsSystemManagementMemory := by
  intro s a b
  refine ⟨fun hregion hopen => ?smm, fun hmain => ?main⟩
  case smm =>
    have hreach : s.reachesSmm a = true := (reachesSmm_iff s a).2 ⟨hregion, hopen⟩
    simp [State.loadByte, State.storeByte, hreach]
  case main =>
    have hreach : s.reachesSmm a = false := by
      rw [Bool.eq_false_iff, ne_eq, reachesSmm_iff]
      rintro ⟨hregion, hopen⟩
      obtain hno | ⟨hsmac, hsmm⟩ := hmain
      · exact hno hregion
      · simp [hsmac, hsmm] at hopen
    simp [State.loadByte, State.storeByte, hreach]

/-! ### Bytes stored and loaded -/

/-- A byte after a store of many: the stored one inside, the old one outside. -/
theorem State.loadByte_storeBytes (s : State) (a : Nat) (bs : List Byte) (c : Nat) :
    (s.storeBytes a bs).loadByte c = if a ≤ c ∧ c < a + bs.length then bs[c - a]? else s.loadByte c := by
  induction bs generalizing s a with
  | nil => simp [State.storeBytes]
  | cons b bs ih =>
    rw [State.storeBytes, ih, List.length_cons]
    obtain hlt | rfl | hgt := Nat.lt_trichotomy c a
    · rw [if_neg (by omega), if_neg (by omega), State.loadByte_storeByte_other s b (by omega)]
    · rw [if_neg (by omega), if_pos (by omega), State.loadByte_storeByte_same, Nat.sub_self, List.getElem?_cons_zero]
    · have hsub : c - a = c - (a + 1) + 1 := by omega
      rw [hsub, List.getElem?_cons_succ, State.loadByte_storeByte_other s b (by omega)]
      exact if_congr (by omega) rfl rfl

/-- Bytes that an address and the ones after it hold are loaded. -/
theorem State.loadBytes_of_loadByte {s : State} {a : Nat} {bs : List Byte}
    (h : ∀ k < bs.length, s.loadByte (a + k) = bs[k]?) : s.loadBytes a bs.length = .ok bs := by
  induction bs generalizing a with
  | nil => rfl
  | cons b bs ih =>
    have hfirst : s.loadByte a = some b := h 0 (by simp)
    have hrest : s.loadBytes (a + 1) bs.length = .ok bs := ih fun k hk => by
      have hk := h (k + 1) (by simpa using hk)
      rwa [List.getElem?_cons_succ, Nat.add_comm k, ← Nat.add_assoc] at hk
    rw [List.length_cons, State.loadBytes, hfirst]
    simp only [hrest]

/-- The bytes stored read back, and so does every part of them. -/
theorem State.loadBytes_storeBytes_part (s : State) (a : Nat) (front bs back : List Byte) :
    (s.storeBytes a (front ++ bs ++ back)).loadBytes (a + front.length) bs.length = .ok bs := by
  refine State.loadBytes_of_loadByte fun k hk => ?_
  have hsub : a + front.length + k - a = front.length + k := by omega
  rw [State.loadByte_storeBytes, if_pos (by simp; omega), hsub, List.append_assoc, List.getElem?_append_right (by omega),
    Nat.add_sub_cancel_left, List.getElem?_append_left hk]

/-! ### Little-endian numbers -/

/-- Byte `k` of a number is at place `k` of its bytes (R106, D1). -/
theorem leBytes_getElem? (n : Nat) (v : BitVec 32) {k : Nat} (hk : k < n) :
    (leBytes n v)[k]? = some (v.extractLsb' (8 * k) 8) := by
  induction n generalizing v k with
  | zero => omega
  | succ n ih =>
    cases k with
    | zero => rw [leBytes, List.getElem?_cons_zero, Nat.mul_zero, BitVec.setWidth_eq_extractLsb' (by decide)]
    | succ k =>
      rw [leBytes, List.getElem?_cons_succ, ih _ (by omega)]
      congr 1
      apply BitVec.eq_of_getLsbD_eq
      intro i hi
      simp only [BitVec.getLsbD_extractLsb', BitVec.getLsbD_ushiftRight]
      congr 2
      omega

/-- The number of a number's low bytes is its low bits. -/
theorem leValue_leBytes_bit (n : Nat) (v : BitVec 32) (k : Nat) :
    (leValue (leBytes n v)).getLsbD k = (decide (k < 8 * n) && v.getLsbD k) := by
  induction n generalizing v k with
  | zero => simp [leBytes, leValue]
  | succ n ih =>
    simp only [leBytes, leValue, BitVec.getLsbD_or, BitVec.getLsbD_shiftLeft, ih, BitVec.getLsbD_ushiftRight,
      BitVec.getLsbD_setWidth]
    by_cases hlow : k < 8
    · have hk : k < 8 * (n + 1) := by omega
      have h32 : k < 32 := by omega
      simp [hlow, hk, h32]
    · by_cases h32 : k < 32
      · have hback : 8 + (k - 8) = k := by omega
        have hrange : k - 8 < 8 * n ↔ k < 8 * (n + 1) := by omega
        simp [hlow, h32, hback, hrange]
      · simp [hlow, h32, BitVec.getLsbD_of_ge v k (by omega)]

theorem leValue_leBytes_toNat (n : Nat) (v : BitVec 32) : (leValue (leBytes n v)).toNat = v.toNat % 2 ^ (8 * n) := by
  apply Nat.eq_of_testBit_eq
  intro k
  rw [Nat.testBit_mod_two_pow, BitVec.testBit_toNat, leValue_leBytes_bit, BitVec.testBit_toNat]

/-- Settles O55: the bytes stored are those of the value, the others are left, and the attributes of the read are resolved
since those of the write were. -/
theorem memoryWriteThenRead : Obligations.MemoryWriteThenRead := by
  intro s a v w
  refine ⟨fun ha => ⟨?writeRefused, ?readRefused⟩, fun t ha ht hopen => ?written⟩
  case writeRefused => rw [State.memWrite, checkAccess_misaligned ha, andThen_of_refused]
  case readRefused => rw [State.memRead, checkAccess_misaligned ha, andThen_of_refused]
  case written =>
    have hwrite : s.memWrite a w v = .next ((s.storeBytes a.toNat (leBytes w.bytes v)).record
        ⟨a, w, .write, s.reachesSmm a.toNat, t⟩) := by
      rw [State.memWrite, checkAccess_aligned ha, ht, andThen_of_next]
      exact if_neg (Bool.eq_false_iff.1 hopen)
    have hload : (s.storeBytes a.toNat (leBytes w.bytes v)).loadBytes a.toNat w.bytes = .ok (leBytes w.bytes v) := by
      simpa [leBytes_length] using State.loadBytes_storeBytes_part s a.toNat [] (leBytes w.bytes v) []
    obtain ⟨haligned, -⟩ := attributes_ok ht
    obtain ⟨t', hread⟩ := memRead_of_loadBytes
      (s := (s.storeBytes a.toNat (leBytes w.bytes v)).record ⟨a, w, .write, s.reachesSmm a.toNat, t⟩) ha
      (by simpa using haligned) ((State.loadBytes_record _ _ _ _).trans hload)
    refine ⟨_, _, hwrite, hread, leValue_leBytes_toNat w.bytes v, fun k hk => ?inside, fun c hc => ?outside⟩
    case inside =>
      rw [State.loadByte_record, State.loadByte_storeBytes, leBytes_length, if_pos (by omega), Nat.add_sub_cancel_left,
        leBytes_getElem? _ _ hk]
    case outside =>
      rw [State.loadByte_record, State.loadByte_storeBytes, leBytes_length, if_neg (by omega)]

end Sys2Proof.Machine
end

section
/-! Gate descriptors: the rows of a gate and the fields of two rows, each the other's inverse, through memory too, and the kind
of a gate by its TYPE. -/

namespace Sys2Proof.Machine

/-! ### The rows and the fields -/

/-- The low half of the row at +4 (R171). -/
def Gate.flags (g : Gate) : BitVec 16 := BitVec.ofBool g.present ++ g.dpl ++ 0#1 ++ g.type ++ 0#3 ++ g.parameters

theorem Gate.row4_eq (g : Gate) : g.row4 = g.offset.extractLsb' 16 16 ++ g.flags := rfl

theorem append_halves (x : BitVec 32) : x.extractLsb' 16 16 ++ x.extractLsb' 0 16 = x :=
  (BitVec.extractLsb'_append_extractLsb'_eq_extractLsb' rfl).trans BitVec.extractLsb'_eq_self

/-- A field of the low half of the row at +4. -/
theorem Gate.row4_extract (g : Gate) {start len : Nat} (h : start + len ≤ 16) :
    g.row4.extractLsb' start len = g.flags.extractLsb' start len :=
  BitVec.extractLsb'_append_eq_of_add_le h

theorem Gate.flags_parameters (g : Gate) : g.flags.extractLsb' 0 5 = g.parameters := BitVec.extractLsb'_append_eq_right

theorem Gate.flags_unnamed (g : Gate) : g.flags.extractLsb' 5 3 = 0#3 :=
  (BitVec.extractLsb'_append_eq_of_le (by decide)).trans BitVec.extractLsb'_append_eq_right

theorem Gate.flags_type (g : Gate) : g.flags.extractLsb' 8 4 = g.type :=
  (BitVec.extractLsb'_append_eq_of_le (by decide)).trans
    ((BitVec.extractLsb'_append_eq_of_le (by decide)).trans BitVec.extractLsb'_append_eq_right)

theorem Gate.flags_s (g : Gate) : g.flags.extractLsb' 12 1 = 0#1 :=
  (BitVec.extractLsb'_append_eq_of_le (by decide)).trans
    ((BitVec.extractLsb'_append_eq_of_le (by decide)).trans
      ((BitVec.extractLsb'_append_eq_of_le (by decide)).trans BitVec.extractLsb'_append_eq_right))

theorem Gate.flags_dpl (g : Gate) : g.flags.extractLsb' 13 2 = g.dpl :=
  (BitVec.extractLsb'_append_eq_of_le (by decide)).trans
    ((BitVec.extractLsb'_append_eq_of_le (by decide)).trans
      ((BitVec.extractLsb'_append_eq_of_le (by decide)).trans
        ((BitVec.extractLsb'_append_eq_of_le (by decide)).trans BitVec.extractLsb'_append_eq_right)))

theorem Gate.flags_present (g : Gate) : g.flags.extractLsb' 15 1 = BitVec.ofBool g.present :=
  (BitVec.extractLsb'_append_eq_of_le (by decide)).trans
    ((BitVec.extractLsb'_append_eq_of_le (by decide)).trans
      ((BitVec.extractLsb'_append_eq_of_le (by decide)).trans
        ((BitVec.extractLsb'_append_eq_of_le (by decide)).trans BitVec.extractLsb'_append_eq_left)))

/-- A field of one bit. -/
theorem extractLsb'_one (x : BitVec 32) (k : Nat) : x.extractLsb' k 1 = BitVec.ofBool (x.getLsbD k) := by
  apply BitVec.eq_of_getLsbD_eq
  intro i hi
  obtain rfl : i = 0 := by omega
  rw [BitVec.getLsbD_extractLsb']
  cases x.getLsbD k <;> simp

theorem getLsbD_of_extract_one {x : BitVec 32} {k : Nat} {b : Bool} (h : x.extractLsb' k 1 = BitVec.ofBool b) :
    x.getLsbD k = b := by
  rw [extractLsb'_one] at h
  revert h
  cases x.getLsbD k <;> cases b <;> decide

/-- The rows of a gate decode to the gate (R171, R179). -/
theorem gateFields_rows {g : Gate} (hs : g.sBit = false) (hu : g.unnamed = 0#3) : gateFields g.row0 g.row4 = g := by
  have hoffset : g.row4.extractLsb' 16 16 ++ g.row0.extractLsb' 0 16 = g.offset := by
    rw [Gate.row4_eq, Gate.row0, extractHigh_append, extractLow_append, append_halves]
  have hselector : g.row0.extractLsb' 16 16 = g.selector := extractHigh_append ..
  have hpresent : g.row4.getLsbD 15 = g.present :=
    getLsbD_of_extract_one ((g.row4_extract (by decide)).trans g.flags_present)
  have hsBit : g.row4.getLsbD 12 = g.sBit :=
    getLsbD_of_extract_one ((g.row4_extract (by decide)).trans (g.flags_s.trans (by rw [hs]; rfl)))
  have hunnamed : g.row4.extractLsb' 5 3 = g.unnamed :=
    (g.row4_extract (by decide)).trans (g.flags_unnamed.trans hu.symm)
  rw [gateFields, hoffset, hselector, hpresent, hsBit, hunnamed, g.row4_extract (by decide), g.flags_dpl,
    g.row4_extract (by decide), g.flags_type, g.row4_extract (by decide), g.flags_parameters]

/-- Rows with bit 12 and bits 7:5 zero are those of the gate they decode to. -/
theorem rows_gateFields {row0 row4 : BitVec 32} (h12 : row4.getLsbD 12 = false) (h5 : row4.extractLsb' 5 3 = 0#3) :
    (gateFields row0 row4).row0 = row0 ∧ (gateFields row0 row4).row4 = row4 := by
  have hflags : (gateFields row0 row4).flags = row4.extractLsb' 0 16 := by
    have hs : 0#1 = row4.extractLsb' 12 1 := by rw [extractLsb'_one, h12]; rfl
    have glue {start₂ start len len₂ : Nat} (h : start₂ = start + len) :
        row4.extractLsb' start₂ len₂ ++ row4.extractLsb' start len = row4.extractLsb' start (len₂ + len) :=
      BitVec.extractLsb'_append_extractLsb'_eq_extractLsb' h
    change BitVec.ofBool (row4.getLsbD 15) ++ row4.extractLsb' 13 2 ++ 0#1 ++ row4.extractLsb' 8 4 ++ 0#3 ++
      row4.extractLsb' 0 5 = _
    rw [← extractLsb'_one, hs, ← h5, glue (by decide), glue (by decide), glue (by decide), glue (by decide),
      glue (by decide)]
  constructor
  · rw [Gate.row0, gateFields, extractLow_append, append_halves]
  · rw [Gate.row4_eq, hflags, gateFields, extractHigh_append, append_halves]

/-! ### A gate in memory -/

/-- A dword is the number of its four bytes. -/
theorem leValue_leBytes_dword (v : BitVec 32) : leValue (leBytes 4 v) = v :=
  BitVec.eq_of_toNat_eq ((leValue_leBytes_toNat 4 v).trans (Nat.mod_eq_of_lt v.isLt))

/-- Settles O56: the two dwords stored are the rows, and the rows decode to the gate. -/
theorem gateDecodeInvertsEncode : Obligations.GateDecodeInvertsEncode := by
  refine ⟨fun g hs hu => gateFields_rows hs hu, fun row0 row4 h12 h5 => rows_gateFields h12 h5,
    fun s d g hend => ⟨fun hd haligned hs hu => ?stored, fun hd => ?misaligned⟩⟩
  case stored =>
    have hlo : (s.storeBytes d.toNat g.bytes).loadBytes d.toNat 4 = .ok (leBytes 4 g.row0) :=
      State.loadBytes_storeBytes_part s d.toNat [] (leBytes 4 g.row0) (leBytes 4 g.row4)
    have hhi : (s.storeBytes d.toNat g.bytes).loadBytes (d.toNat + 4) 4 = .ok (leBytes 4 g.row4) := by
      simpa [leBytes_length, Gate.bytes] using
        State.loadBytes_storeBytes_part s d.toNat (leBytes 4 g.row0) (leBytes 4 g.row4) []
    obtain ⟨x, y, hread, -, -⟩ := readDescriptor_of_loadBytes hd hend (by simpa using haligned) hlo hhi
    rw [leValue_leBytes_dword, leValue_leBytes_dword] at hread
    refine ⟨((s.storeBytes d.toNat g.bytes).record x).record y, ?_, fun a => ⟨rfl, rfl⟩⟩
    rw [State.gateAt, hread, andThen_of_next, BitVec.extractLsb'_append_eq_left, BitVec.extractLsb'_append_eq_right,
      gateFields_rows hs hu]
  case misaligned =>
    have hzero : d + BitVec.ofNat 32 0 = d := BitVec.add_zero d
    have hrow : s.readRow d 0 .dword = .refused (.misalignedAccess d) := by
      rw [readRow_inside (by simp only [Width.bytes]; omega), hzero, State.memRead, checkAccess_misaligned hd,
        andThen_of_refused]
    rw [State.gateAt, State.readDescriptor, hrow, andThen_of_refused, andThen_of_refused]

/-! ### The kind of a gate -/

theorem gateKindOfType_iff (v : BitVec 4) (k : GateKind) : gateKindOfType v = some k ↔ v = k.type := by
  revert v
  cases k <;> decide

/-- A change of a row in bits a field does not have leaves the field. -/
theorem extractLsb'_xor_of_clear {x m : BitVec 32} (h : x &&& m = 0#32) (row : BitVec 32) {start len : Nat}
    (hm : m.extractLsb' start len = BitVec.allOnes len) :
    (row ^^^ x).extractLsb' start len = row.extractLsb' start len := by
  have hx : x.extractLsb' start len = 0#len := by
    rw [← BitVec.and_allOnes (x := x.extractLsb' start len), ← hm, ← BitVec.extractLsb'_and, h, BitVec.extractLsb'_zero]
  rw [BitVec.extractLsb'_xor, hx, BitVec.xor_zero]

/-- Settles O57: the TYPE values are listed, and bits 7:5 are in no other field. -/
theorem gateKindByType : Obligations.GateKindByType := by
  refine ⟨fun g k => ?kind, fun k v => ?value, fun row0 row4 x hx => ?ignored⟩
  case kind =>
    rw [Gate.kind]
    cases g.sBit <;> simp [gateKindOfType_iff]
  case value => revert v; cases k <;> decide
  case ignored =>
    have hfield {start len : Nat} (hm : (0xFFFFFF1F#32).extractLsb' start len = BitVec.allOnes len) :
        (row4 ^^^ x).extractLsb' start len = row4.extractLsb' start len := extractLsb'_xor_of_clear hx row4 hm
    have hbit {k : Nat} (hm : (0xFFFFFF1F#32).extractLsb' k 1 = BitVec.allOnes 1) :
        (row4 ^^^ x).getLsbD k = row4.getLsbD k :=
      getLsbD_of_extract_one ((hfield hm).trans (extractLsb'_one row4 k))
    simp only [gateFields, hfield (show (0xFFFFFF1F#32).extractLsb' 16 16 = _ by decide),
      hfield (show (0xFFFFFF1F#32).extractLsb' 13 2 = _ by decide),
      hfield (show (0xFFFFFF1F#32).extractLsb' 8 4 = _ by decide),
      hfield (show (0xFFFFFF1F#32).extractLsb' 0 5 = _ by decide),
      hbit (show (0xFFFFFF1F#32).extractLsb' 15 1 = _ by decide),
      hbit (show (0xFFFFFF1F#32).extractLsb' 12 1 = _ by decide)]

end Sys2Proof.Machine
end

section
/-! The two Task State Segments: the rows of a TSS as a list of equal chunks, each row of the 32-bit one from its fields, and a
field of a TSS in memory from its row. From these the statement that a TSS gives its fields back. -/

namespace Sys2Proof.Machine

/-! ### Structures of equal rows in memory -/

/-- Rows of equal length, one after the other, take as many bytes as there are. -/
theorem length_flatMap_rows {α : Type} {g : α → List Byte} {w : Nat} (hw : ∀ x, (g x).length = w) (xs : List α) :
    (xs.flatMap g).length = w * xs.length := by
  simp [List.length_flatMap, hw, Nat.mul_comm]

/-- Row `k` of a structure stored in memory is loaded at its offset. -/
theorem loadBytes_row {α : Type} {g : α → List Byte} {w : Nat} (hw : ∀ x, (g x).length = w) {xs : List α} {k : Nat}
    {x : α} (hx : xs[k]? = some x) (s : State) (a : Nat) :
    (s.storeBytes a (xs.flatMap g)).loadBytes (a + w * k) w = .ok (g x) := by
  obtain ⟨hk, rfl⟩ := List.getElem?_eq_some_iff.1 hx
  have hfront : ((xs.take k).flatMap g).length = w * k := by
    rw [length_flatMap_rows hw, List.length_take_of_le (by omega)]
  have hsplit : xs.flatMap g = (xs.take k).flatMap g ++ g xs[k] ++ (xs.drop (k + 1)).flatMap g := by
    rw [← List.flatMap_singleton g xs[k], ← List.flatMap_append, ← List.flatMap_append, List.append_assoc,
      List.singleton_append, List.getElem_cons_drop, List.take_append_drop]
  have hpart := State.loadBytes_storeBytes_part s a ((xs.take k).flatMap g) (g xs[k]) ((xs.drop (k + 1)).flatMap g)
  rwa [← hsplit, hfront, hw] at hpart

/-- A row of a structure stored in memory is read with its checks, while every active region is aligned. -/
theorem readRow_row {α : Type} {g : α → List Byte} {w : Width} (hw : ∀ x, (g x).length = w.bytes) {xs : List α}
    {k : Nat} {x : α} (hx : xs[k]? = some x) {s : State} {base : BitVec 32} (haligned : regionsAligned s.cfg)
    (hbase : base.toNat % w.bytes = 0) (hend : base.toNat + w.bytes * xs.length ≤ 2 ^ 32) :
    ∃ t, (s.storeBytes base.toNat (xs.flatMap g)).readRow base (w.bytes * k) w = .next (leValue (g x), t) := by
  obtain ⟨hk, -⟩ := List.getElem?_eq_some_iff.1 hx
  have hrow : w.bytes * k + w.bytes ≤ w.bytes * xs.length := Nat.mul_le_mul_left w.bytes hk
  obtain ⟨y, hy, -⟩ := readRow_of_loadBytes (w := w) (by omega) (by rw [Nat.add_mul_mod_self_left, hbase])
    (by simpa using haligned) (loadBytes_row hw hx s base.toNat)
  exact ⟨_, hy⟩

/-! ### The fields of the 32-bit TSS -/

theorem Tss32Field.mask_bit (f : Tss32Field) (k : Nat) : f.mask.getLsbD k = decide (k < f.width) := by
  have hwidth : f.width ≤ 32 := by cases f <;> decide
  rw [Tss32Field.mask, BitVec.getLsbD_ofNat, Nat.testBit_two_pow_sub_one, ← Bool.decide_and]
  exact decide_eq_decide.2 (by omega)

/-- A field is its bits of the row, counted from its lowest one. -/
theorem Tss32Field.get_bit (f : Tss32Field) (row : BitVec 32) (k : Nat) :
    (f.get row).getLsbD k = (row.getLsbD (f.lowBit + k) && decide (k < f.width)) := by
  rw [Tss32Field.get, BitVec.getLsbD_and, BitVec.getLsbD_ushiftRight, Tss32Field.mask_bit]

/-- A field of 32 bits is not cut. -/
theorem Tss32Field.and_mask_of_wide {f : Tss32Field} (h : f.width = 32) (x : BitVec 32) : x &&& f.mask = x := by
  apply BitVec.eq_of_getLsbD_eq
  intro k hk
  rw [BitVec.getLsbD_and, Tss32Field.mask_bit, h, decide_eq_true hk, Bool.and_true]

theorem Tss32Field.lowBit_eq_zero {f : Tss32Field} (h : f ≠ .ioMapBase) : f.lowBit = 0 := by
  cases f with
  | ioMapBase => exact absurd rfl h
  | _ => rfl

/-- The other half of the row of a 16-bit field is ignored (R201, D30). -/
theorem Tss32Field.get_xor {f : Tss32Field} {x : BitVec 32} (hwidth : f.width = 16) (hf : f ≠ .ioMapBase)
    (hx : x &&& 0x0000FFFF#32 = 0#32) (row : BitVec 32) : f.get (row ^^^ x) = f.get row := by
  apply BitVec.eq_of_getLsbD_eq
  intro k hk
  rw [Tss32Field.get_bit, Tss32Field.get_bit, hwidth, Tss32Field.lowBit_eq_zero hf, Nat.zero_add]
  by_cases hlow : k < 16
  · have hmask : (0x0000FFFF#32).getLsbD k = true := Tss32Field.mask_bit .es k ▸ decide_eq_true hlow
    have hbit : (x &&& 0x0000FFFF#32).getLsbD k = false := by rw [hx, BitVec.getLsbD_zero]
    rw [BitVec.getLsbD_and, hmask, Bool.and_true] at hbit
    rw [BitVec.getLsbD_xor, hbit, Bool.xor_false]
  · rw [decide_eq_false hlow, Bool.and_false, Bool.and_false]

/-! ### The rows of the 32-bit TSS -/

/-- A row is made of the fields at its offset. -/
theorem tss32Row_eq (v : Tss32Field → BitVec 32) (offset : Nat) :
    tss32Row v offset = (tss32Fields.filter fun f => f.offset = offset).foldr
      (fun f row => ((v f &&& f.mask) <<< f.lowBit) ||| row) 0#32 := by
  simp [tss32Row, List.foldr_filter]

/-- The last row holds two fields, every other one holds one (R200, R202). -/
theorem tss32Fields_at (f : Tss32Field) : (tss32Fields.filter fun g => g.offset = f.offset) =
    if f = .tBit ∨ f = .ioMapBase then [.tBit, .ioMapBase] else [f] := by
  cases f <;> decide

theorem tss32Row_of_field (v : Tss32Field → BitVec 32) {f : Tss32Field} (h : ¬ (f = .tBit ∨ f = .ioMapBase)) :
    tss32Row v f.offset = v f &&& f.mask := by
  have hlow : f.lowBit = 0 := Tss32Field.lowBit_eq_zero fun e => h (.inr e)
  rw [tss32Row_eq, tss32Fields_at, if_neg h, List.foldr_cons, List.foldr_nil, hlow, BitVec.shiftLeft_zero,
    BitVec.or_zero]

theorem tss32Row_last (v : Tss32Field → BitVec 32) :
    tss32Row v 0x64 = ((v .ioMapBase &&& 0xFFFF#32) <<< 16) ||| (v .tBit &&& 1#32) := by
  have hrow : tss32Row v Tss32Field.tBit.offset =
      ((v .tBit &&& 1#32) <<< 0) ||| (((v .ioMapBase &&& 0xFFFF#32) <<< 16) ||| 0#32) := by
    rw [tss32Row_eq, tss32Fields_at, if_pos (.inl rfl)]
    rfl
  rw [BitVec.shiftLeft_zero, BitVec.or_zero, BitVec.or_comm] at hrow
  exact hrow

/-- The last row bit by bit: the T bit at 0, the I/O map base in the high half, zeros between them (R201, R202). -/
theorem tss32Row_last_bit (v : Tss32Field → BitVec 32) {k : Nat} (hk : k < 32) : (tss32Row v 0x64).getLsbD k =
    if k < 16 then (v .tBit &&& 1#32).getLsbD k else (v .ioMapBase).getLsbD (k - 16) := by
  have hone : (1#32).getLsbD k = decide (k < 1) := Tss32Field.mask_bit .tBit k
  have hhalf : (0xFFFF#32).getLsbD (k - 16) = true :=
    (Tss32Field.mask_bit .ioMapBase (k - 16)).trans (decide_eq_true (show k - 16 < 16 by omega))
  rw [tss32Row_last, BitVec.getLsbD_or, BitVec.getLsbD_shiftLeft, BitVec.getLsbD_and, BitVec.getLsbD_and, hone, hhalf,
    Bool.and_true, decide_eq_true hk, Bool.true_and]
  split
  next h => rw [decide_eq_true h, Bool.not_true, Bool.false_and, Bool.false_or]
  next h => rw [decide_eq_false h, decide_eq_false (by omega), Bool.and_false, Bool.or_false, Bool.not_false, Bool.true_and]

/-- A field taken from its row is the field, cut to its width. -/
theorem Tss32Field.get_row (v : Tss32Field → BitVec 32) (f : Tss32Field) :
    f.get (tss32Row v f.offset) = v f &&& f.mask := by
  by_cases hlast : f = .tBit ∨ f = .ioMapBase
  · apply BitVec.eq_of_getLsbD_eq
    intro k hk
    rw [Tss32Field.get_bit, BitVec.getLsbD_and, Tss32Field.mask_bit]
    by_cases hwidth : k < f.width
    · rw [decide_eq_true hwidth, Bool.and_true, Bool.and_true]
      obtain rfl | rfl := hlast
      · obtain rfl : k = 0 := Nat.lt_one_iff.1 hwidth
        refine (tss32Row_last_bit v (by decide)).trans ?_
        simp [Tss32Field.lowBit]
      · have hwidth : k < 16 := hwidth
        have hhigh : ¬ 16 + k < 16 := by omega
        refine (tss32Row_last_bit v (show 16 + k < 32 by omega)).trans ?_
        rw [if_neg hhigh, Nat.add_sub_cancel_left]
    · rw [decide_eq_false hwidth, Bool.and_false, Bool.and_false]
  · have hlow : f.lowBit = 0 := Tss32Field.lowBit_eq_zero fun e => hlast (.inr e)
    rw [tss32Row_of_field v hlast, Tss32Field.get, hlow, BitVec.ushiftRight_zero, BitVec.and_assoc, BitVec.and_self]

/-- The rows of the 32-bit TSS but the last, by the field each holds. -/
def tss32SingleRows : List Tss32Field :=
  [.backLink, .esp0, .ss0, .esp1, .ss1, .esp2, .ss2, .cr3, .eip, .eflags, .eax, .ecx, .edx, .ebx, .esp, .ebp,
    .esi, .edi, .es, .cs, .ss, .ds, .fs, .gs, .ldt]

theorem tss32Bytes_eq (v : Tss32Field → BitVec 32) :
    tss32Bytes v = (tss32SingleRows.map (fun f => v f &&& f.mask) ++ [tss32Row v 0x64]).flatMap (leBytes 4) := by
  have hoffsets : (List.range 26).map (4 * ·) = tss32SingleRows.map Tss32Field.offset ++ [0x64] := by decide
  have hsingle : tss32SingleRows.map (fun f => tss32Row v f.offset) = tss32SingleRows.map fun f => v f &&& f.mask :=
    List.map_congr_left fun f hf => tss32Row_of_field v (by revert hf; cases f <;> decide)
  calc tss32Bytes v = (((List.range 26).map (4 * ·)).map (tss32Row v)).flatMap (leBytes 4) := by
        rw [List.map_map, List.flatMap_map]
        rfl
    _ = _ := by rw [hoffsets, List.map_append, List.map_map, ← hsingle]; rfl

/-- Settles O58: both layouts row by row, and a field read from the row it stands in. -/
theorem tssFieldsReadBack : Obligations.TssFieldsReadBack := by
  refine ⟨fun v => ?layout32, fun v => rfl, by decide, by decide, fun s base v f haligned hbase hend => ?read32,
    fun s base v f haligned hbase hend => ?read16, fun f row x hwidth hf hx => Tss32Field.get_xor hwidth hf hx row⟩
  case layout32 =>
    have hwide (f : Tss32Field) (h : f.width = 32) : v f &&& f.mask = v f := Tss32Field.and_mask_of_wide h (v f)
    rw [tss32Bytes_eq, tss32Row_last]
    simp only [tss32SingleRows, List.map_cons, List.map_nil, hwide .esp0 rfl, hwide .esp1 rfl, hwide .esp2 rfl,
      hwide .cr3 rfl, hwide .eip rfl, hwide .eflags rfl, hwide .eax rfl, hwide .ecx rfl, hwide .edx rfl, hwide .ebx rfl,
      hwide .esp rfl, hwide .ebp rfl, hwide .esi rfl, hwide .edi rfl]
    rfl
  case read32 =>
    have hoffset : f.offset = Width.dword.bytes * (f.offset / 4) := by cases f <;> decide
    have hrow : (List.range 26)[f.offset / 4]? = some (f.offset / 4) := by cases f <;> decide
    obtain ⟨t, ht⟩ := readRow_row (w := .dword) (g := fun k => leBytes 4 (tss32Row v (4 * k)))
      (fun k => leBytes_length 4 _) hrow haligned hbase hend
    have hfield : 4 * (f.offset / 4) = f.offset := hoffset.symm
    rw [← hoffset, leValue_leBytes_dword, hfield] at ht
    refine ⟨t, ?_⟩
    rw [State.tss32Field, tss32Bytes, ht, andThen_of_next, Tss32Field.get_row, Tss32Field.mask]
  case read16 =>
    have hoffset : f.offset = Width.word.bytes * (f.offset / 2) := by cases f <;> decide
    have hrow : tss16Fields[f.offset / 2]? = some f := by cases f <;> decide
    obtain ⟨t, ht⟩ := readRow_row (w := .word) (g := fun f => leBytes 2 ((v f).setWidth 32))
      (fun k => leBytes_length 2 _) hrow haligned hbase hend
    rw [← hoffset] at ht
    have hvalue : (leValue (leBytes 2 ((v f).setWidth 32))).setWidth 16 = v f := by
      apply BitVec.eq_of_toNat_eq
      rw [BitVec.toNat_setWidth, leValue_leBytes_toNat, BitVec.toNat_setWidth]
      omega
    refine ⟨t, ?_⟩
    rw [State.tss16Field, tss16Bytes, ht, andThen_of_next, hvalue]

end Sys2Proof.Machine
end
